-- ==== Sys2Proof/Word.lean ====
section
/-! DEFINITION. The two word widths of NP21-RXV: bytes (registers, frame bytes; spec 00_scope.md R10) and the 16-bit
checksum registers (10_state.md R32, R33). All values are unsigned (R10). -/

namespace Sys2Proof

/-- A byte, unsigned, 0x00..0xFF, bit 0 least significant (R10). -/
abbrev Byte := BitVec 8

/-- The width of the CRC and RXC registers (R32, R33). -/
abbrev Word16 := BitVec 16

end Sys2Proof
end

