-- ==== Sys2Proof/Syntax.lean ====
section
/-! DEFINITION. The commands of NP21-RXV: one constructor for each row of spec/opcode_table.json (30_encoding.md R71).
No command carries an operand (R72), so no constructor has an argument. -/

namespace Sys2Proof

/-- The sixteen commands of R71. -/
inductive Instr where
  | nop
  | fbClr
  | crcInit
  | crcByte
  | checksum
  | appendCrc
  | validate
  | decStatus
  | decConfig
  | decBattery
  | decReady
  | lkReady
  | lkPtype
  | lkPcolor
  | lkTimeout
  | lkBeep
deriving DecidableEq, Repr

end Sys2Proof
end

