-- ==== Sys2Proof/Decode.lean ====
section
/-! DEFINITION. Decoding and encoding of commands: format C8, one byte written to CMD, decoded on the whole byte
(30_encoding.md R70, R71). The decoder is total and rejects by name the 240 codes of R73. -/

namespace Sys2Proof

/-- Why bytes are not a command. -/
inductive DecodeReject where
  /-- The byte is one of the 240 codes that R73 lists as illegal; writing it to CMD runs the ILLEGAL action (R184). -/
  | illegalCommand (code : Byte)
  /-- There is no byte to decode. -/
  | noByte
deriving DecidableEq, Repr

/-- Field GRP of format C8, bits 7:4 (R70). -/
def grpField (b : Byte) : Nat := b.toNat / 16

/-- Field SUB of format C8, bits 3:0 (R70). -/
def subField (b : Byte) : Nat := b.toNat % 16

/-- A row of the command map: GRP, SUB and the command they name. -/
structure OpcodeRow where
  grp : Nat
  sub : Nat
  instr : Instr
deriving DecidableEq, Repr

/-- The command map of R71. -/
def opcodeTable : List OpcodeRow :=
  [⟨0, 0, .nop⟩, ⟨0, 1, .fbClr⟩] ++
  [⟨1, 0, .crcInit⟩, ⟨1, 1, .crcByte⟩, ⟨1, 2, .checksum⟩, ⟨1, 3, .appendCrc⟩, ⟨1, 4, .validate⟩] ++
  [⟨2, 0, .decStatus⟩, ⟨2, 1, .decConfig⟩, ⟨2, 2, .decBattery⟩, ⟨2, 3, .decReady⟩] ++
  [⟨3, 0, .lkReady⟩, ⟨3, 1, .lkPtype⟩, ⟨3, 2, .lkPcolor⟩, ⟨3, 3, .lkTimeout⟩, ⟨3, 4, .lkBeep⟩]

/-- The command a byte names (R71), or the rejection of R73. -/
def decodeByte (b : Byte) : Except DecodeReject Instr :=
  match opcodeTable.find? (fun row => row.grp == grpField b && row.sub == subField b) with
  | some row => .ok row.instr
  | none => .error (.illegalCommand b)

/-- Decode the first command of a byte sequence and give the bytes after it; a command is always one byte (R74). -/
def decodeBytes : List Byte → Except DecodeReject (Instr × List Byte)
  | [] => .error .noByte
  | b :: rest =>
    match decodeByte b with
    | .ok i => .ok (i, rest)
    | .error r => .error r

/-- The code of a command, as the column "code" of R71 gives it. -/
def encode : Instr → Byte
  | .nop => 0x00#8
  | .fbClr => 0x01#8
  | .crcInit => 0x10#8
  | .crcByte => 0x11#8
  | .checksum => 0x12#8
  | .appendCrc => 0x13#8
  | .validate => 0x14#8
  | .decStatus => 0x20#8
  | .decConfig => 0x21#8
  | .decBattery => 0x22#8
  | .decReady => 0x23#8
  | .lkReady => 0x30#8
  | .lkPtype => 0x31#8
  | .lkPcolor => 0x32#8
  | .lkTimeout => 0x33#8
  | .lkBeep => 0x34#8

/-- The bytes of an instruction word of `nbits` bits numbered as spec/opcode_table.json numbers them: bits 7..0 are the first
byte, and every bit above `nbits` is 0. -/
def tableBytes (nbits w : Nat) : List Byte :=
  (List.range ((nbits + 7) / 8)).map fun k => BitVec.ofNat 8 ((w % 2 ^ nbits) / 2 ^ (8 * k))

/-- The instruction the decoder reads from a word numbered as spec/opcode_table.json numbers it. -/
def decodeTableWord (nbits w : Nat) : Option Instr :=
  match decodeBytes (tableBytes nbits w) with
  | .ok (i, _) => some i
  | .error _ => none

end Sys2Proof
end

