-- ==== Sys2Proof/Config.lean ====
section
/-! DEFINITION. What an implementation fixes: the parameters of spec 00_scope.md R7 with their defaults, and the one free
value (FB bytes that nothing has written, 20_memory.md R51). RXV_BASE and RXV_RESET are read by no rule and are left out
(92_eei_decisions.md, "Open parameters"; log 8). -/

namespace Sys2Proof

/-- The five enumerations of 42_enum_lookup.md R141–R145, in the order in which 30_encoding.md R71 numbers the lookups. -/
inductive Enumeration where
  | readinessStatus
  | paperType
  | paperColor
  | timeoutSetting
  | beepSetting
deriving DecidableEq, Repr

/-- The two legal values of STATUS_PAYLOAD_LEN (R7). -/
inductive StatusLen where
  | sixteen
  | fourteen
deriving DecidableEq, Repr

/-- STATUS_PAYLOAD_LEN as a number of bytes (R7). -/
def StatusLen.bytes : StatusLen → Nat
  | .sixteen => 16
  | .fourteen => 14

/-- The parameters of R7. They are plain data carried by the state, so that a statement over every state holds for every
value of them (DESIGN CHOICE, safe; log 4). `WellFormed.lean` says which values are legal.
`displayText` lists the pairs (enumeration, display index) whose text differs from the default (R146; DESIGN CHOICE, safe;
log 6). -/
structure Params where
  fbCap : Nat
  statusLen : StatusLen
  termCheck : Bool
  displayText : List ((Enumeration × Byte) × String)
deriving DecidableEq, Repr

/-- The defaults of R7: FB_CAP 32, STATUS_PAYLOAD_LEN 16, TERM_CHECK false, DISPLAY_TEXT the member identifiers. -/
def Params.default : Params :=
  { fbCap := 32, statusLen := .sixteen, termCheck := false, displayText := [] }

/-- FREE VALUE (DESIGN CHOICE, safe; log 5): what byte `i` of the frame buffer holds while nothing has written it since
reset. "FB bytes at indices FBLEN and above hold unspecified values" (20_memory.md R51). -/
opaque Config.unwrittenFbByte : Nat → Byte

end Sys2Proof
end

