-- ==== Sys2Proof/Machine/State.lean ====
section
/-! DEFINITION. The machine's state: the stored state of spec 10_state.md R48, the implementation parameters (00_scope.md R7)
and the host's side of the bus (R20, R195, R199); its reset value (70_reset_and_hazards.md R210); the reasons a step can
stop, of which the block has none (60_exceptions.md R199). -/

namespace Sys2Proof.Machine

/-- The result codes of ERR (60_exceptions.md R181). "ERR never holds a value above 4" (10_state.md R25; DEDUCED, safe;
log 7). -/
inductive ResultCode where
  | ok
  | checksumMismatch
  | malformedResponse
  | illegalCommand
  | fbOverflow
deriving DecidableEq, Repr

/-- The kinds of record of RKIND (10_state.md R34). "Values 5..255 never occur" (DEDUCED, safe; log 7). -/
inductive RecordKind where
  | none
  | status
  | config
  | battery
  | ready
deriving DecidableEq, Repr

/-- What the host can do to the block (60_exceptions.md R195): one register write or read at one offset, or reset
(70_reset_and_hazards.md R211). -/
inductive HostEvent where
  | write (offset : Byte) (value : Byte)
  | read (offset : Byte)
  | reset
deriving DecidableEq, Repr

/-- The frame buffer's written bytes: (index, byte) pairs, indices strictly rising (`Memory.wf`). An index it does not list
holds no byte that anything has written (log 5). -/
abbrev Memory := List Host.Cell

/-- The complete stored state of R48, and three fields of the model's own (`params`, `pending`, `returned`). -/
structure State where
  /-- The parameters of R7, changed by no step (log 4). -/
  params : Params
  /-- The host's events still to come, the next one first (R20, R65; log 1). -/
  pending : List HostEvent
  /-- The values the host's reads have returned, oldest first (R199; log 3). -/
  returned : List Byte
  /-- CRC, the checksum register (R32). -/
  crc : Word16
  /-- RXC, the received checksum (R33). -/
  rxc : Word16
  /-- ERR, the result of the most recent command (R25). -/
  err : ResultCode
  /-- STAT.OVF (R26). -/
  ovf : Bool
  /-- DIN, the operand register (R27). -/
  din : Byte
  /-- FBLEN, the number of valid bytes in FB (R29). -/
  fblen : Byte
  /-- FBPTR, the read index (R30). -/
  fbptr : Byte
  /-- RKIND, the kind of record in REC (R34). -/
  rkind : RecordKind
  /-- PLEN, the payload length (R35). -/
  plen : Byte
  /-- REC0..REC15, the record register file (R37). -/
  record : Vector Byte 16
  /-- LKIDX, the display index a lookup found (R44). -/
  lkidx : Byte
  /-- LKFLG, bit 0 = known (R44). -/
  lkflg : Byte
  /-- LKMIN, the minutes of a timeout (R44). -/
  lkmin : Byte
  /-- FB, the frame buffer (20_memory.md R50). -/
  fb : Memory
deriving DecidableEq, Repr

/-- Why the machine could fault: never. "The block never enters a stuck or faulted state: every access has a step" (R199). -/
inductive Fault where
deriving DecidableEq, Repr

/-- Why the machine could refuse an instruction. -/
inductive Refusal where
  /-- Raised by `exec` alone, for an instruction with no meaning yet (none is left); safe: the run stops. -/
  | notModelled (mnemonic : String)
deriving DecidableEq, Repr

/-- The state right after reset (R210), with the default parameters (R7), no event pending (log 2), nothing returned
(log 3), and nothing written in FB (R51; log 5). -/
def State.reset : State where
  params := Params.default
  pending := []
  returned := []
  crc := 0xFFFF#16
  rxc := 0x0000#16
  err := .ok
  ovf := false
  din := 0x00#8
  fblen := 0x00#8
  fbptr := 0x00#8
  rkind := .none
  plen := 0x00#8
  record := #v[0, 0, 0, 0, 0, 0, 0, 0, 0, 0, 0, 0, 0, 0, 0, 0]
  lkidx := 0xFF#8
  lkflg := 0x00#8
  lkmin := 0xFF#8
  fb := []

end Sys2Proof.Machine
end

