-- ==== Sys2Proof/Machine/Constants.lean ====
section
/-! DEFINITION. The constants fixed by D0 (spec 00_scope.md R8). -/

namespace Sys2Proof.Machine

/-- `CRC_INIT` (R8, 40_checksum.md R91). -/
def crcInitValue : Word16 := 0xFFFF#16

/-- `CRC_POLY_REFLECTED` (R8, R90). -/
def crcPolyReflected : Word16 := 0xA001#16

/-- `CRC_LEN`: the bytes of a checksum in a frame (R8). -/
def crcLen : Nat := 2

/-- `CONFIG_PREFIX`, ASCII "CONFIG " (R8). -/
def configPrefix : List Byte := [0x43, 0x4F, 0x4E, 0x46, 0x49, 0x47, 0x20]

/-- `BATTERY_PREFIX`, ASCII "BATTERY " (R8). -/
def batteryPrefix : List Byte := [0x42, 0x41, 0x54, 0x54, 0x45, 0x52, 0x59, 0x20]

/-- `CONFIG_PAYLOAD_LEN` (R8). -/
def configPayloadLen : Nat := 9

/-- `BATTERY_PAYLOAD_LEN` (R8). -/
def batteryPayloadLen : Nat := 2

/-- `ENVELOPE_TRAILER_LEN` (R8). -/
def envelopeTrailerLen : Nat := 2

/-- The terminator CR LF that `TERM_CHECK` asks for (41_decoder.md R111). -/
def envelopeTerminator : List Byte := [0x0D, 0x0A]

/-- `READY_FRAME_LEN` (R8). -/
def readyFrameLen : Nat := 1

end Sys2Proof.Machine
end

