-- ==== Sys2Proof/Machine/Crc.lean ====
section
/-! DEFINITION. The checksum functions (spec 40_checksum.md R90, R91) and the byte order of a checksum (20_memory.md R54). -/

namespace Sys2Proof.Machine

/-- One iteration of R90's loop: the low bit is tested before the shift. -/
def crcIter (c : Word16) : Word16 :=
  if c.getLsbD 0 then (c >>> 1) ^^^ crcPolyReflected else c >>> 1

/-- `k` iterations of R90's loop. -/
def crcIters : Nat → Word16 → Word16
  | 0, c => c
  | k + 1, c => crcIters k (crcIter c)

/-- `crc_step(c, b)` (R90): the byte enters bits 7:0, then eight iterations. -/
def crcStep (c : Word16) (b : Byte) : Word16 := crcIters 8 (c ^^^ b.setWidth 16)

/-- Feed the bytes of a list, in order, into a register that holds `c`. -/
def crcFeed (c : Word16) (bytes : List Byte) : Word16 := bytes.foldl crcStep c

/-- `crc16(s)` (R91): no final XOR, no final bit reversal. -/
def crc16 (bytes : List Byte) : Word16 := crcFeed crcInitValue bytes

/-- Bits 15:8 of a checksum, the byte that comes first in a frame (R54). -/
def hiByte (c : Word16) : Byte := (c >>> 8).setWidth 8

/-- Bits 7:0 of a checksum. -/
def loByte (c : Word16) : Byte := c.setWidth 8

/-- `{h, l}`, the 16-bit value `h*256 + l` (00_scope.md R10). -/
def joinBytes (h l : Byte) : Word16 := h ++ l

end Sys2Proof.Machine
end

