-- ==== Sys2Proof/Machine/Ops.lean ====
section
/-! DEFINITION. The named operations over the frame buffer and the registers: reading and writing FB (spec 20_memory.md
R50–R53), how every command ends (00_scope.md R14, `finish` and `raise`; there are no traps, 60_exceptions.md R180), how a
decode ends (41_decoder.md R110, `commitRecord` and `discardRecord`), and reset (70_reset_and_hazards.md R210). -/

namespace Sys2Proof.Machine

/-- The canonical form of the frame buffer: indices strictly rising. -/
def Memory.wf : Memory → Bool
  | [] => true
  | [_] => true
  | a :: b :: rest => decide (a.1 < b.1) && Memory.wf (b :: rest)

/-- The byte written at an index, if any was. -/
def Memory.read? : Memory → Nat → Option Byte
  | [], _ => none
  | (a, v) :: rest, i => if a = i then some v else Memory.read? rest i

/-- Write one byte, keeping the canonical form. -/
def Memory.write : Memory → Nat → Byte → Memory
  | [], i, v => [(i, v)]
  | (a, w) :: rest, i, v =>
    if i < a then (i, v) :: (a, w) :: rest
    else if i = a then (i, v) :: rest
    else (a, w) :: Memory.write rest i v

/-- Write the bytes of a list at consecutive indices, the first at `i`. -/
def Memory.writeList : Memory → Nat → List Byte → Memory
  | m, _, [] => m
  | m, i, v :: vs => Memory.writeList (m.write i v) (i + 1) vs

/-- `FB[i]` (R13, R50). A byte that nothing has written since reset is the free value of `Config` (R51; DESIGN CHOICE, safe;
log 5). -/
def fbByte (s : State) (i : Nat) : Byte := (s.fb.read? i).getD (Config.unwrittenFbByte i)

/-- `MemRead(i, n)`: the byte list `FB[i..i+n)` (R13, R53). -/
def memRead (s : State) (i n : Nat) : List Byte := (List.range n).map fun k => fbByte s (i + k)

/-- `MemWrite(i, n, v)` with n the length of v (R13, R53). -/
def memWrite (s : State) (i : Nat) (v : List Byte) : State := { s with fb := s.fb.writeList i v }

/-- A host write of byte v to FBDATA (R52): append it, or drop it and set OVF. -/
def fbAppend (v : Byte) (s : State) : State :=
  if s.fblen.toNat < s.params.fbCap then
    { memWrite s s.fblen.toNat [v] with fblen := s.fblen + 1#8 }
  else
    { s with ovf := true }

/-- `finish`: the command completed, ERR <- 0 (R14). -/
def finish (s : State) : State := { s with err := .ok }

/-- `raise Err(code)`: the command stopped, ERR <- code (R14, R180). The one way in which a command reports an error; nothing
is saved and control does not move. -/
def raise (code : ResultCode) (s : State) : State := { s with err := code }

/-- REC after a commit of payload p: `REC[i]` is payload byte i below the payload length and 0x00 above it (R37, R110). -/
def recordOf (p : List Byte) : Vector Byte 16 :=
  #v[p.getD 0 0, p.getD 1 0, p.getD 2 0, p.getD 3 0, p.getD 4 0, p.getD 5 0, p.getD 6 0, p.getD 7 0,
     p.getD 8 0, p.getD 9 0, p.getD 10 0, p.getD 11 0, p.getD 12 0, p.getD 13 0, p.getD 14 0, p.getD 15 0]

/-- `commit(kind, p)` (R110). -/
def commitRecord (kind : RecordKind) (p : List Byte) (s : State) : State :=
  finish { s with record := recordOf p, rkind := kind, plen := BitVec.ofNat 8 p.length }

/-- `discard(code)` (R110): a failing decode clears the old record. -/
def discardRecord (code : ResultCode) (s : State) : State :=
  raise code { s with record := recordOf [], rkind := .none, plen := 0#8 }

/-- Reset (R210, R211): every stored register at its reset value. The parameters and the host's side are not the block's
registers and stay (log 9); FB is unspecified afterwards, so nothing stays listed (R51; log 5). -/
def resetBlock (s : State) : State :=
  { State.reset with params := s.params, pending := s.pending, returned := s.returned }

end Sys2Proof.Machine
end

