-- ==== Sys2Proof/Machine/Operands.lean ====
section
/-! DEFINITION. Where commands take their operands from: no command carries one, each reads fixed state (spec 30_encoding.md
R72). -/

namespace Sys2Proof.Machine

/-- FBLEN as a number (10_state.md R29). -/
def frameLen (s : State) : Nat := s.fblen.toNat

/-- The frame a command sees, `FB[0..FBLEN)` (R29, R16). -/
def frame (s : State) : List Byte := memRead s 0 (frameLen s)

/-- The payload of a frame that ends in a checksum after `n` bytes. -/
def payload (s : State) (n : Nat) : List Byte := memRead s 0 n

/-- The checksum a frame carries after its `n` payload bytes, `{FB[n], FB[n+1]}`, high byte first (20_memory.md R54). -/
def receivedCrc (s : State) (n : Nat) : Word16 := joinBytes (fbByte s n) (fbByte s (n + 1))

/-- STATUS_PAYLOAD_LEN (00_scope.md R7). -/
def statusPayloadLen (s : State) : Nat := s.params.statusLen.bytes

/-- `env_check(prefix, n)` (41_decoder.md R111): the payload of a well-formed envelope, or none for `bad`. -/
def envCheck (pre : List Byte) (n : Nat) (s : State) : Option (List Byte) :=
  if frameLen s < pre.length then none
  else if memRead s 0 pre.length ≠ pre then none
  else if frameLen s ≠ pre.length + n + envelopeTrailerLen then none
  else if s.params.termCheck = true ∧ memRead s (frameLen s - 2) 2 ≠ envelopeTerminator then none
  else some (memRead s pre.length n)

end Sys2Proof.Machine
end

