-- ==== Sys2Proof/Machine/Control.lean ====
section
/-! DEFINITION. The control commands (spec 43_control.md) and the ILLEGAL action (60_exceptions.md R184). -/

namespace Sys2Proof.Machine

/-- NOP (R170): only ERR changes. -/
def execNop (s : State) : Host.Outcome State Fault Refusal := .next (finish s)

/-- FB_CLR (R171): empties the buffer, erases no byte. -/
def execFbClr (s : State) : Host.Outcome State Fault Refusal :=
  .next (finish { s with fblen := 0#8, fbptr := 0#8, ovf := false })

/-- A CMD write of one of the 240 illegal codes (R73, R184): ERR <- 3 and no other state changes. -/
def execIllegal (s : State) : Host.Outcome State Fault Refusal := .next (raise .illegalCommand s)

end Sys2Proof.Machine
end

