-- ==== Sys2Proof/Machine/Checksum.lean ====
section
/-! DEFINITION. The checksum engine's commands (spec 40_checksum.md). -/

namespace Sys2Proof.Machine

/-- CRC_INIT (R93). -/
def execCrcInit (s : State) : Host.Outcome State Fault Refusal := .next (finish { s with crc := crcInitValue })

/-- CRC_BYTE (R94): it does not read FB, so it ignores OVF. -/
def execCrcByte (s : State) : Host.Outcome State Fault Refusal := .next (finish { s with crc := crcStep s.crc s.din })

/-- CHECKSUM (R95). -/
def execChecksum (s : State) : Host.Outcome State Fault Refusal :=
  if s.ovf then .next (raise .fbOverflow s)
  else .next (finish { s with crc := crc16 (frame s) })

/-- APPEND_CRC (R96): the checksum of the frame, appended high byte first. -/
def execAppendCrc (s : State) : Host.Outcome State Fault Refusal :=
  if s.ovf then .next (raise .fbOverflow s)
  else if frameLen s + crcLen > s.params.fbCap then .next (raise .fbOverflow s)
  else
    let c := crc16 (frame s)
    .next (finish { memWrite s (frameLen s) [hiByte c, loByte c] with fblen := s.fblen + 2#8, crc := c })

/-- The two checksums that VALIDATE and DEC_STATUS compare are written to CRC and RXC (R97, R112). -/
def storeChecksums (n : Nat) (s : State) : State :=
  { s with crc := crc16 (payload s n), rxc := receivedCrc s n }

/-- VALIDATE (R97). -/
def execValidate (s : State) : Host.Outcome State Fault Refusal :=
  if s.ovf then .next (raise .fbOverflow { s with plen := 0#8 })
  else if frameLen s < crcLen then .next (raise .malformedResponse { s with plen := 0#8 })
  else
    let n := frameLen s - crcLen
    if crc16 (payload s n) ≠ receivedCrc s n then
      .next (raise .checksumMismatch { storeChecksums n s with plen := 0#8 })
    else .next (finish { storeChecksums n s with plen := s.fblen - 2#8 })

end Sys2Proof.Machine
end

