-- ==== Sys2Proof/Machine/Decoder.lean ====
section
/-! DEFINITION. The response decoder's commands (spec 41_decoder.md). No command looks at an enumerated field's value (R116). -/

namespace Sys2Proof.Machine

/-- DEC_STATUS (R112): OVF, then length, then checksum, then the record. -/
def execDecStatus (s : State) : Host.Outcome State Fault Refusal :=
  if s.ovf then .next (discardRecord .fbOverflow s)
  else
    let n := statusPayloadLen s
    if frameLen s ≠ n + crcLen then .next (discardRecord .malformedResponse s)
    else if crc16 (payload s n) ≠ receivedCrc s n then .next (discardRecord .checksumMismatch (storeChecksums n s))
    else .next (commitRecord .status (payload s n) (storeChecksums n s))

/-- The end of DEC_CONFIG and DEC_BATTERY: commit the payload of a good envelope, discard a bad one (R113, R114). -/
def decodeEnvelope (kind : RecordKind) (pre : List Byte) (n : Nat) (s : State) : State :=
  if s.ovf then discardRecord .fbOverflow s
  else
    match envCheck pre n s with
    | none => discardRecord .malformedResponse s
    | some p => commitRecord kind p s

/-- DEC_CONFIG (R113). -/
def execDecConfig (s : State) : Host.Outcome State Fault Refusal :=
  .next (decodeEnvelope .config configPrefix configPayloadLen s)

/-- DEC_BATTERY (R114). -/
def execDecBattery (s : State) : Host.Outcome State Fault Refusal :=
  .next (decodeEnvelope .battery batteryPrefix batteryPayloadLen s)

/-- DEC_READY (R115): a one-byte frame, no checksum. -/
def execDecReady (s : State) : Host.Outcome State Fault Refusal :=
  if s.ovf then .next (discardRecord .fbOverflow s)
  else if frameLen s ≠ readyFrameLen then .next (discardRecord .malformedResponse s)
  else .next (commitRecord .ready [fbByte s 0] s)

end Sys2Proof.Machine
end

