-- ==== Sys2Proof/Machine/Enums.lean ====
section
/-! DEFINITION. The enumerated field registry (spec 42_enum_lookup.md R140–R146): each enumeration is a closed list of members,
and a byte is compared whole (R152). -/

namespace Sys2Proof.Machine

/-- The members of each enumeration, value and identifier, in D0's order (R141–R145). -/
def members : Enumeration → List (Byte × String)
  | .readinessStatus => [(0x00, "READY"), (0x01, "LID_OPEN"), (0x04, "OUT_OF_PAPER"), (0x20, "BUSY")]
  | .paperType => [(0x00, "CONTINUOUS"), (0x01, "GAPPED"), (0x02, "BLACKMARK")]
  | .paperColor =>
    [(0x00, "UNKNOWN"), (0x02, "TRANSPARENT"), (0x03, "WHITE"), (0x04, "PINK"), (0x05, "BLUE"), (0x06, "YELLOW")]
  | .timeoutSetting => [(0x00, "NEVER"), (0x01, "MINUTES_15"), (0x02, "MINUTES_30"), (0x03, "MINUTES_60")]
  | .beepSetting => [(0x00, "OFF"), (0x01, "ON")]

/-- The display index of the unrecognized representation (R140). -/
def unrecognizedIndex : Byte := 0xFF#8

/-- `known_E(v)` (R140): v is the value of a member. -/
def known (e : Enumeration) (v : Byte) : Bool := (members e).any fun m => m.1 == v

/-- The position of v among members, counted from `at`, or 0xFF. -/
def positionFrom (v : Byte) : List (Byte × String) → Nat → Byte
  | [], _ => unrecognizedIndex
  | m :: rest, at_ => if m.1 = v then BitVec.ofNat 8 at_ else positionFrom v rest (at_ + 1)

/-- `index_E(v)` (R140): the member's position in D0's listing, 0xFF if unrecognized. -/
def index (e : Enumeration) (v : Byte) : Byte := positionFrom v (members e) 0

/-- `minutes(v)` of a TimeoutSetting value (R144): 0, 15, 30, 60, or 0xFF if unrecognized. -/
def minutes (v : Byte) : Byte :=
  if v = 0x00 then 0
  else if v = 0x01 then 15
  else if v = 0x02 then 30
  else if v = 0x03 then 60
  else 0xFF

/-- The default display text (R146): the member's identifier, "Unknown" for an index that no member has. -/
def defaultText (e : Enumeration) (idx : Byte) : String :=
  match (members e)[idx.toNat]? with
  | some m => m.2
  | none => "Unknown"

/-- `DISPLAY_TEXT(E, index)` (R146): the parameter's text. The block outputs indices only; this is what a host shows. -/
def displayText (p : Params) (e : Enumeration) (idx : Byte) : String :=
  match p.displayText.find? (fun entry => entry.1 == (e, idx)) with
  | some entry => entry.2
  | none => defaultText e idx

/-- The text a host shows for the battery charging flag, bit 0 of B_FLAGS (R146). -/
def chargingText (charging : Bool) : String := if charging then "Charging" else "Not Charging"

end Sys2Proof.Machine
end

