-- ==== Sys2Proof/Machine/Flags.lean ====
section
/-! DEFINITION. Every flag byte (spec 10_state.md R46): STAT (R26), S_FLAGS (R39), C_FLAGS (R41), B_FLAGS (R43) and LKFLG
(R44). Only OVF is stored; the view flags are functions of REC. -/

namespace Sys2Proof.Machine

/-- A byte from its low four flag bits, bit 0 first; bits 7:4 are 0. -/
def flagByte (b0 b1 b2 b3 : Bool) : Byte :=
  BitVec.ofNat 8 (b0.toNat + 2 * b1.toNat + 4 * b2.toNat + 8 * b3.toNat)

/-- STAT (R26): bit 0 = OVF, the rest read 0. -/
def statByte (ovf : Bool) : Byte := flagByte ovf false false false

/-- NOTAG (R39): label width and label length both zero. -/
def noTag (r : Vector Byte 16) : Bool := r[13] == 0 && r[11] == 0

/-- S_FLAGS (R39). -/
def statusFlags (r : Vector Byte 16) : Byte :=
  flagByte (noTag r) (known .readinessStatus r[0]) (known .paperColor r[4]) (known .paperType r[7])

/-- BEEP_ON (R41): "nonzero = on". -/
def beepOn (r : Vector Byte 16) : Bool := r[8] != 0

/-- C_FLAGS (R41). -/
def configFlags (r : Vector Byte 16) : Byte :=
  flagByte (beepOn r) (known .timeoutSetting r[7]) (known .beepSetting r[8]) false

/-- The high nibble of the battery's BCD byte, its tens digit (R42). -/
def bcdTens (r : Vector Byte 16) : Nat := r[0].toNat / 16

/-- The low nibble of the battery's BCD byte, its ones digit (R42). -/
def bcdOnes (r : Vector Byte 16) : Nat := r[0].toNat % 16

/-- B_PCT (R42): `10 * REC[0][7:4] + REC[0][3:0]`, at most 165. -/
def batteryPercent (r : Vector Byte 16) : Byte := BitVec.ofNat 8 (10 * bcdTens r + bcdOnes r)

/-- CHARGING (R43): "nonzero = charging"; NOT_LIVE is equal to it. -/
def charging (r : Vector Byte 16) : Bool := r[1] != 0

/-- BCD_INVALID (R43). -/
def bcdInvalid (r : Vector Byte 16) : Bool := decide (bcdTens r > 9) || decide (bcdOnes r > 9)

/-- B_FLAGS (R43). -/
def batteryFlags (r : Vector Byte 16) : Byte := flagByte (charging r) (charging r) (bcdInvalid r) false

/-- LKFLG after a lookup (R44): bit 0 = known, bits 7:1 = 0. -/
def lookupFlag (isKnown : Bool) : Byte := flagByte isKnown false false false

end Sys2Proof.Machine
end

