-- ==== Sys2Proof/Machine/Lookup.lean ====
section
/-! DEFINITION. The five lookup commands (spec 42_enum_lookup.md R147–R151). -/

namespace Sys2Proof.Machine

/-- The shared template: the lookup outputs for DIN in an enumeration, with the minutes to write to LKMIN (R44). -/
def lookup (e : Enumeration) (min : Byte) (s : State) : State :=
  finish { s with lkidx := index e s.din, lkflg := lookupFlag (known e s.din), lkmin := min }

/-- LK_READY (R147). -/
def execLkReady (s : State) : Host.Outcome State Fault Refusal := .next (lookup .readinessStatus 0xFF#8 s)

/-- LK_PTYPE (R148). -/
def execLkPtype (s : State) : Host.Outcome State Fault Refusal := .next (lookup .paperType 0xFF#8 s)

/-- LK_PCOLOR (R149). -/
def execLkPcolor (s : State) : Host.Outcome State Fault Refusal := .next (lookup .paperColor 0xFF#8 s)

/-- LK_TIMEOUT (R150): the only lookup that gives minutes. -/
def execLkTimeout (s : State) : Host.Outcome State Fault Refusal := .next (lookup .timeoutSetting (minutes s.din) s)

/-- LK_BEEP (R151). -/
def execLkBeep (s : State) : Host.Outcome State Fault Refusal := .next (lookup .beepSetting 0xFF#8 s)

end Sys2Proof.Machine
end

