-- ==== Sys2Proof/Machine/Dispatch.lean ====
section
/-! DEFINITION. One arm per command of R71, each a direct call of its meaning. -/

namespace Sys2Proof.Machine

def exec (i : Instr) (s : State) : Host.Outcome State Fault Refusal :=
  match i with
  | .nop => Sys2Proof.Machine.execNop s
  | .fbClr => Sys2Proof.Machine.execFbClr s
  | .crcInit => Sys2Proof.Machine.execCrcInit s
  | .crcByte => Sys2Proof.Machine.execCrcByte s
  | .checksum => Sys2Proof.Machine.execChecksum s
  | .appendCrc => Sys2Proof.Machine.execAppendCrc s
  | .validate => Sys2Proof.Machine.execValidate s
  | .decStatus => Sys2Proof.Machine.execDecStatus s
  | .decConfig => Sys2Proof.Machine.execDecConfig s
  | .decBattery => Sys2Proof.Machine.execDecBattery s
  | .decReady => Sys2Proof.Machine.execDecReady s
  | .lkReady => Sys2Proof.Machine.execLkReady s
  | .lkPtype => Sys2Proof.Machine.execLkPtype s
  | .lkPcolor => Sys2Proof.Machine.execLkPcolor s
  | .lkTimeout => Sys2Proof.Machine.execLkTimeout s
  | .lkBeep => Sys2Proof.Machine.execLkBeep s

end Sys2Proof.Machine
end

