-- ==== Sys2Proof/Machine/RegMap.lean ====
section
/-! DEFINITION. The register map: the names and offsets of spec 10_state.md R23 and R38–R44. Offsets no row lists are unmapped
(R45). -/

namespace Sys2Proof.Machine

/-- The registers of the map, by their names in the spec. -/
inductive Reg where
  | cmd | err | stat | din | fbdata | fblen | fbptr | fbrd
  | crch | crcl | rxch | rxcl | rkind | plen | cap
  | record (i : Fin 16)
  | sReady | sDlen | sColor | sRadius | sPtype | sLlen | sLwmax | sLw | sFlags | sRdyidx | sColidx | sPtidx
  | cDpi | cHwmaj | cHwmin | cHwpat | cFwmaj | cFwmin | cFwpat | cTimeout | cBeep | cFlags | cTomin | cToidx | cBpidx
  | bBcd | bChg | bPct | bFlags
  | lkidx | lkflg | lkmin
deriving DecidableEq, Repr

/-- The control and status registers (R23–R36). -/
def controlRegs : List (Byte × Reg) :=
  [(0x00, .cmd), (0x01, .err), (0x02, .stat), (0x03, .din), (0x04, .fbdata), (0x05, .fblen), (0x06, .fbptr), (0x07, .fbrd),
   (0x08, .crch), (0x09, .crcl), (0x0A, .rxch), (0x0B, .rxcl), (0x0C, .rkind), (0x0D, .plen), (0x0E, .cap)]

/-- The record register file (R37). -/
def recordRegs : List (Byte × Reg) :=
  [(0x10, .record 0), (0x11, .record 1), (0x12, .record 2), (0x13, .record 3), (0x14, .record 4), (0x15, .record 5),
   (0x16, .record 6), (0x17, .record 7), (0x18, .record 8), (0x19, .record 9), (0x1A, .record 10), (0x1B, .record 11),
   (0x1C, .record 12), (0x1D, .record 13), (0x1E, .record 14), (0x1F, .record 15)]

/-- The status view (R38, R39). -/
def statusRegs : List (Byte × Reg) :=
  [(0x20, .sReady), (0x21, .sDlen), (0x22, .sColor), (0x23, .sRadius), (0x24, .sPtype), (0x25, .sLlen), (0x26, .sLwmax),
   (0x27, .sLw), (0x28, .sFlags), (0x29, .sRdyidx), (0x2A, .sColidx), (0x2B, .sPtidx)]

/-- The config view (R40, R41). -/
def configRegs : List (Byte × Reg) :=
  [(0x30, .cDpi), (0x31, .cHwmaj), (0x32, .cHwmin), (0x33, .cHwpat), (0x34, .cFwmaj), (0x35, .cFwmin), (0x36, .cFwpat),
   (0x37, .cTimeout), (0x38, .cBeep), (0x39, .cFlags), (0x3A, .cTomin), (0x3B, .cToidx), (0x3C, .cBpidx)]

/-- The battery view (R42, R43) and the lookup outputs (R44). -/
def batteryAndLookupRegs : List (Byte × Reg) :=
  [(0x40, .bBcd), (0x41, .bChg), (0x42, .bPct), (0x43, .bFlags), (0x50, .lkidx), (0x51, .lkflg), (0x52, .lkmin)]

/-- The register map (R23): offset and register. -/
def regMap : List (Byte × Reg) := controlRegs ++ recordRegs ++ statusRegs ++ configRegs ++ batteryAndLookupRegs

/-- The register at an offset; none where the offset is unmapped (R45). -/
def regAt (offset : Byte) : Option Reg := (regMap.find? fun row => row.1 == offset).map (·.2)

/-- The offset of a register. -/
def offsetOf (r : Reg) : Byte :=
  match regMap.find? (fun row => row.2 == r) with
  | some row => row.1
  | none => 0xFF#8

end Sys2Proof.Machine
end

