-- ==== Sys2Proof/Machine/Views.lean ====
section
/-! DEFINITION. What a host read returns: every register of the map (spec 10_state.md R24–R45), the views computed from REC
whatever RKIND holds (R38). No read has a side effect (20_memory.md R63). -/

namespace Sys2Proof.Machine

/-- The code of a result in ERR (60_exceptions.md R181). -/
def ResultCode.toByte : ResultCode → Byte
  | .ok => 0
  | .checksumMismatch => 1
  | .malformedResponse => 2
  | .illegalCommand => 3
  | .fbOverflow => 4

/-- The code of a record kind in RKIND (10_state.md R34). -/
def RecordKind.toByte : RecordKind → Byte
  | .none => 0
  | .status => 1
  | .config => 2
  | .battery => 3
  | .ready => 4

/-- FBRD (R31): `FB[FBPTR]` when `FBPTR < FBLEN`, and 0x00 otherwise. -/
def fbrdByte (s : State) : Byte := if s.fbptr.toNat < frameLen s then fbByte s s.fbptr.toNat else 0x00#8

/-- The value a read of a register returns (R23, R38–R44). -/
def readReg (s : State) : Reg → Byte
  | .cmd => 0x00#8
  | .err => s.err.toByte
  | .stat => statByte s.ovf
  | .din => s.din
  | .fbdata => 0x00#8
  | .fblen => s.fblen
  | .fbptr => s.fbptr
  | .fbrd => fbrdByte s
  | .crch => hiByte s.crc
  | .crcl => loByte s.crc
  | .rxch => hiByte s.rxc
  | .rxcl => loByte s.rxc
  | .rkind => s.rkind.toByte
  | .plen => s.plen
  | .cap => BitVec.ofNat 8 s.params.fbCap
  | .record i => s.record[i]
  | .sReady => s.record[0]
  | .sDlen => s.record[1]
  | .sColor => s.record[4]
  | .sRadius => s.record[6]
  | .sPtype => s.record[7]
  | .sLlen => s.record[11]
  | .sLwmax => s.record[12]
  | .sLw => s.record[13]
  | .sFlags => statusFlags s.record
  | .sRdyidx => index .readinessStatus s.record[0]
  | .sColidx => index .paperColor s.record[4]
  | .sPtidx => index .paperType s.record[7]
  | .cDpi => s.record[0]
  | .cHwmaj => s.record[1]
  | .cHwmin => s.record[2]
  | .cHwpat => s.record[3]
  | .cFwmaj => s.record[4]
  | .cFwmin => s.record[5]
  | .cFwpat => s.record[6]
  | .cTimeout => s.record[7]
  | .cBeep => s.record[8]
  | .cFlags => configFlags s.record
  | .cTomin => minutes s.record[7]
  | .cToidx => index .timeoutSetting s.record[7]
  | .cBpidx => index .beepSetting s.record[8]
  | .bBcd => s.record[0]
  | .bChg => s.record[1]
  | .bPct => batteryPercent s.record
  | .bFlags => batteryFlags s.record
  | .lkidx => s.lkidx
  | .lkflg => s.lkflg
  | .lkmin => s.lkmin

/-- The value a read of an offset returns; an unmapped offset returns 0x00 (R45). -/
def readOffset (s : State) (offset : Byte) : Byte :=
  match regAt offset with
  | some r => readReg s r
  | none => 0x00#8

end Sys2Proof.Machine
end

