-- ==== Sys2Proof/Machine/Bus.lean ====
section
/-! DEFINITION. The host's accesses (spec 60_exceptions.md R195): a write, a read and reset, each one step (10_state.md R20). -/

namespace Sys2Proof.Machine

/-- A write of byte v to CMD: run the command it encodes, or the ILLEGAL action (R24, R73, R184). -/
def runCommand (v : Byte) (s : State) : Host.Outcome State Fault Refusal :=
  match decodeByte v with
  | .ok i => exec i s
  | .error _ => execIllegal s

/-- A host write. Only CMD, DIN, FBDATA and FBPTR take one; a write to a read-only register or an unmapped offset is ignored
(R45, 20_memory.md R63). -/
def hostWrite (offset v : Byte) (s : State) : Host.Outcome State Fault Refusal :=
  match regAt offset with
  | some .cmd => runCommand v s
  | some .din => .next { s with din := v }
  | some .fbdata => .next (fbAppend v s)
  | some .fbptr => .next { s with fbptr := v }
  | _ => .next s

/-- A host read: the value goes to the host and the block does not change (R63, R199). -/
def hostRead (offset : Byte) (s : State) : Host.Outcome State Fault Refusal :=
  .next { s with returned := s.returned ++ [readOffset s offset] }

/-- One host event, run to its end (R20, R62). -/
def hostEvent (e : HostEvent) (s : State) : Host.Outcome State Fault Refusal :=
  match e with
  | .write offset v => hostWrite offset v s
  | .read offset => hostRead offset s
  | .reset => .next (resetBlock s)

/-- The host's next event, if it has one: the event is taken off the pending list and runs. With none pending nothing happens:
"no step happens without a host access" (R20; DESIGN CHOICE, safe; log 1). -/
def takeEvent (s : State) : Host.Outcome State Fault Refusal :=
  match s.pending with
  | [] => .next s
  | e :: rest => hostEvent e { s with pending := rest }

/-- The byte of a command word numbered as spec/opcode_table.json numbers it (R74: a command is one byte). -/
def commandByte (nbits w : Nat) : Byte := BitVec.ofNat 8 (w % 2 ^ nbits)

/-- Put a CMD write of a byte in front of the pending events. -/
def putCommandFirst (v : Byte) (s : State) : State :=
  { s with pending := .write (offsetOf .cmd) v :: s.pending }

end Sys2Proof.Machine
end

