-- ==== Sys2Proof/Machine/Step.lean ====
section
/-! DEFINITION. One step of the machine is one host event (spec 10_state.md R20), and the placing of one command word where
the next step takes it. -/

namespace Sys2Proof.Machine

/-- One step: the host's next event, run to its end (R20, R62, R65). -/
def step (s : State) : Host.Outcome State Fault Refusal := takeEvent s

/-- The block fetches no program (R22): its next command is the next CMD write, so the word becomes one (log 2). -/
def State.withFetchWord (s : State) (nbits w : Nat) : State := putCommandFirst (commandByte nbits w) s

end Sys2Proof.Machine
end

