-- ==== Sys2Proof/Machine/HostProgram.lean ====
section
/-! DEFINITION. Host programs as lists of bus accesses: the syntax of spec 30_encoding.md R75 and the pseudo-instructions of
R76. Each definition's value is the expansion the rule gives. -/

namespace Sys2Proof.Machine

/-- `wr 0xOO, 0xVV` (R75). -/
def wrAt (offset v : Byte) : List HostEvent := [.write offset v]

/-- `wr NAME, 0xVV` (R75). -/
def wr (r : Reg) (v : Byte) : List HostEvent := wrAt (offsetOf r) v

/-- `rd 0xOO` (R75). -/
def rdAt (offset : Byte) : List HostEvent := [.read offset]

/-- `rd NAME` (R75). -/
def rd (r : Reg) : List HostEvent := rdAt (offsetOf r)

/-- `cmd MNEMONIC`: `wr CMD, <code>` (R75). -/
def cmd (i : Instr) : List HostEvent := wr .cmd (encode i)

/-- `append b0 ... bn-1`: one write to FBDATA per byte, in order (R76). -/
def append (bytes : List Byte) : List HostEvent := bytes.flatMap (wr .fbdata)

/-- `load b0 b1 ... bn-1`: FB_CLR, then the bytes (R76). -/
def load (bytes : List Byte) : List HostEvent := cmd .fbClr ++ append bytes

/-- `crcbyte 0xVV` (R76). -/
def crcbyte (v : Byte) : List HostEvent := wr .din v ++ cmd .crcByte

/-- The lookup command of an enumeration (R71). -/
def lookupInstr : Enumeration → Instr
  | .readinessStatus => .lkReady
  | .paperType => .lkPtype
  | .paperColor => .lkPcolor
  | .timeoutSetting => .lkTimeout
  | .beepSetting => .lkBeep

/-- `lookup E, 0xVV` (R76). -/
def lookupOf (e : Enumeration) (v : Byte) : List HostEvent := wr .din v ++ cmd (lookupInstr e)

/-- `rd16 CRC` (R76). -/
def rd16Crc : List HostEvent := rd .crch ++ rd .crcl

/-- `rd16 RXC` (R76). -/
def rd16Rxc : List HostEvent := rd .rxch ++ rd .rxcl

end Sys2Proof.Machine
end

