-- ==== Sys2Proof/WellFormed.lean ====
section
/-! DEFINITION. The checks: which instructions are well formed (every one: none has a field that could be out of range,
30_encoding.md R72) and which parameter values are legal (00_scope.md R7, 42_enum_lookup.md R146). -/

namespace Sys2Proof

/-- Every command is well formed: it has no register, immediate or mode field (R70, R72). -/
def Instr.wf : Instr → Bool
  | .nop | .fbClr => true
  | .crcInit | .crcByte | .checksum | .appendCrc | .validate => true
  | .decStatus | .decConfig | .decBattery | .decReady => true
  | .lkReady | .lkPtype | .lkPcolor | .lkTimeout | .lkBeep => true

/-- FB_CAP is an integer 18..255 (R7). -/
def Params.capLegal (p : Params) : Bool := decide (18 ≤ p.fbCap) && decide (p.fbCap ≤ 255)

/-- `DISPLAY_TEXT(E, 0xFF)` = "Unknown" for every E (R146). -/
def Params.textLegal (p : Params) : Bool :=
  p.displayText.all fun entry => entry.1.2 != 0xFF#8 || entry.2 == "Unknown"

/-- The legal parameter values of R7; STATUS_PAYLOAD_LEN and TERM_CHECK are legal by their types. -/
def Params.wf (p : Params) : Bool := p.capLegal && p.textLegal

end Sys2Proof
end

