-- ==== Sys2Proof/Safety.lean ====
section
/-! DEFINITION. The terms in which claims about runs are made: several steps, a run in which no command failed (spec
60_exceptions.md R199), the invariant of the machine's states, and what no host access can tell apart (10_state.md R47). -/

namespace Sys2Proof.Machine

/-- `k` steps, one host event each; stops where a step does not answer a next state. -/
def runSteps : Nat → State → Host.Outcome State Fault Refusal
  | 0, s => .next s
  | k + 1, s =>
    match step s with
    | .next t => runSteps k t
    | .fault r => .fault r
    | .refused r => .refused r

/-- The event is a CMD write, so a command runs (10_state.md R24). -/
def HostEvent.isCommand : HostEvent → Bool
  | .write offset _ => regAt offset == some .cmd
  | .read _ => false
  | .reset => false

/-- "No command failed" in the next `k` steps (R199): ERR is OK after each step that ran a command. -/
def cleanRun : Nat → State → Bool
  | 0, _ => true
  | k + 1, s =>
    match step s with
    | .next t => (!(s.pending.head?.any HostEvent.isCommand) || t.err == .ok) && cleanRun k t
    | .fault _ => false
    | .refused _ => false

/-- The payload length that a record kind stands for (R35, R37); 0 where there is no record. -/
def recordLen (p : Params) : RecordKind → Nat
  | .none => 0
  | .status => p.statusLen.bytes
  | .config => 9
  | .battery => 2
  | .ready => 1

/-- What holds of every state a run can reach. -/
structure State.Inv (s : State) : Prop where
  /-- The parameters are legal (00_scope.md R7). -/
  params_legal : s.params.wf = true
  /-- FBLEN is 0..FB_CAP (R29). -/
  fblen_le_cap : s.fblen.toNat ≤ s.params.fbCap
  /-- OVF is set only while FB is full (20_memory.md R52, R96, R171). -/
  ovf_full : s.ovf = true → s.fblen.toNat = s.params.fbCap
  /-- The frame buffer keeps its canonical form. -/
  fb_canonical : Memory.wf s.fb = true
  /-- Every byte of the frame has been written (R52, R96). -/
  fb_written : ∀ i, i < s.fblen.toNat → (s.fb.read? i).isSome = true
  /-- No byte outside FB[0..FB_CAP) exists (R50, R53). -/
  fb_inside : ∀ i, (s.fb.read? i).isSome = true → i < s.params.fbCap
  /-- A payload leaves room for a checksum in FB, or is one of the records (R35). -/
  plen_fits : s.plen.toNat + 2 ≤ s.params.fbCap
  /-- REC is 0x00 above the payload of its record, all of it where there is none (R37, R110). -/
  record_padded : ∀ i : Fin 16, recordLen s.params s.rkind ≤ i.val → s.record[i] = 0x00#8
  /-- LKIDX and LKFLG agree: a display index 0..5 with bit 0 set, or 0xFF with no bit set (R44). -/
  lookup_agrees : (s.lkflg = 0x01#8 ∧ s.lkidx.toNat ≤ 5) ∨ (s.lkflg = 0x00#8 ∧ s.lkidx = 0xFF#8)
  /-- LKMIN is a number of minutes or 0xFF (R44, 42_enum_lookup.md R144). -/
  lkmin_listed : s.lkmin ∈ [0x00#8, 0x0F#8, 0x1E#8, 0x3C#8, 0xFF#8]

/-- Two states differ at most in FB bytes at indices FBLEN and above, the only hidden state (R47, 20_memory.md R51). -/
def SameObservable (s t : State) : Prop :=
  t = { s with fb := t.fb } ∧ ∀ i, i < frameLen s → fbByte t i = fbByte s i

end Sys2Proof.Machine
end

