-- ==== Sys2Proof/Certificates/Slice0/Obligations.lean ====
section
/-! DEFINITION. The statements for the provers. Each docstring names the rule of the spec it formalises; `∀ s` means every state,
reached by a run or not, unless a premise says otherwise. -/

open Sys2Proof Sys2Proof.Machine

/-! ## Reset -/

/-- R210: the table of reset values, and the readable values that follow from them, for `State.reset`. -/
def Obligations.ResetStateHoldsTheListedValues : Prop :=
  State.reset.crc = 0xFFFF#16 ∧ State.reset.rxc = 0x0000#16 ∧ State.reset.err = .ok ∧ State.reset.ovf = false ∧
  State.reset.din = 0x00#8 ∧ State.reset.fblen = 0x00#8 ∧ State.reset.fbptr = 0x00#8 ∧ State.reset.rkind = .none ∧
  State.reset.plen = 0x00#8 ∧ (∀ i : Fin 16, State.reset.record[i] = 0x00#8) ∧ State.reset.lkidx = 0xFF#8 ∧
  State.reset.lkflg = 0x00#8 ∧ State.reset.lkmin = 0xFF#8 ∧
  readOffset State.reset 0x07#8 = 0x00#8 ∧ (readOffset State.reset 0x0E#8).toNat = State.reset.params.fbCap ∧
  readOffset State.reset 0x28#8 = 0x0F#8 ∧ readOffset State.reset 0x39#8 = 0x06#8 ∧
  readOffset State.reset 0x3A#8 = 0x00#8 ∧ readOffset State.reset 0x42#8 = 0x00#8 ∧ readOffset State.reset 0x43#8 = 0x00#8

/-- R210, with R45 for the unmapped offsets: from any state with legal parameters, the reset event leaves every stored register at
its listed value and every offset reading as right after reset (CAP reads FB_CAP), and has no other effect. FB is left unspecified.
That the parameters (log 4) and the host's side (log 9) stay is the model's choice. -/
def Obligations.ResetEventLeavesEveryOffsetAtItsResetValue : Prop :=
  ∀ (s : State) (rest : List HostEvent), s.params.wf = true → s.pending = .reset :: rest →
    ∃ t, step s = .next t ∧
      t = { params := s.params, pending := rest, returned := s.returned, crc := 0xFFFF#16, rxc := 0x0000#16, err := .ok,
            ovf := false, din := 0x00#8, fblen := 0x00#8, fbptr := 0x00#8, rkind := .none, plen := 0x00#8,
            record := t.record, lkidx := 0xFF#8, lkflg := 0x00#8, lkmin := 0xFF#8, fb := t.fb } ∧
      (∀ k : Fin 16, t.record[k] = 0x00#8) ∧ (readOffset t 0x0E#8).toNat = s.params.fbCap ∧
      ∀ offset : Byte, offset ≠ 0x0E#8 →
        readOffset t offset =
          if offset = 0x08#8 ∨ offset = 0x09#8 ∨ offset = 0x50#8 ∨ offset = 0x52#8 then 0xFF#8
          else if offset = 0x28#8 then 0x0F#8
          else if offset = 0x39#8 then 0x06#8
          else 0x00#8

/-! ## The bus and the decoder -/

/-- R24: a CMD write runs the command whose code it is, any other byte runs ILLEGAL_COMMAND, and a read of CMD returns 0x00
and has no effect. Every step that runs an instruction is one of these. -/
def Obligations.CmdWriteRunsTheDecodedCommand : Prop :=
  ∀ (s : State) (rest : List HostEvent) (v : Byte),
    (s.pending = .write 0x00#8 v :: rest →
      (∀ i, decodeByte v = .ok i → step s = exec i { s with pending := rest }) ∧
      (∀ r, decodeByte v = .error r → step s = .next { s with pending := rest, err := .illegalCommand })) ∧
    (s.pending = .read 0x00#8 :: rest →
      step s = .next { s with pending := rest, returned := s.returned ++ [0x00#8] })

/-- The word placed by `withFetchWord` is the one the next step runs: on it the step is exec of the decoded command (log 2). -/
def Obligations.FetchedWordIsExecutedNext : Prop :=
  ∀ (s : State) (w : Nat) (i : Instr), decodeTableWord 8 w = some i → step (s.withFetchWord 8 w) = exec i s

/-- R71: each of the sixteen codes, written out in the bits of its fields GRP and SUB, decodes to its command. -/
def Obligations.ListedCodesDecode : Prop :=
  decodeByte 0b00000000#8 = .ok .nop ∧ decodeByte 0b00000001#8 = .ok .fbClr ∧
  decodeByte 0b00010000#8 = .ok .crcInit ∧ decodeByte 0b00010001#8 = .ok .crcByte ∧ decodeByte 0b00010010#8 = .ok .checksum ∧
  decodeByte 0b00010011#8 = .ok .appendCrc ∧ decodeByte 0b00010100#8 = .ok .validate ∧
  decodeByte 0b00100000#8 = .ok .decStatus ∧ decodeByte 0b00100001#8 = .ok .decConfig ∧
  decodeByte 0b00100010#8 = .ok .decBattery ∧ decodeByte 0b00100011#8 = .ok .decReady ∧
  decodeByte 0b00110000#8 = .ok .lkReady ∧ decodeByte 0b00110001#8 = .ok .lkPtype ∧ decodeByte 0b00110010#8 = .ok .lkPcolor ∧
  decodeByte 0b00110011#8 = .ok .lkTimeout ∧ decodeByte 0b00110100#8 = .ok .lkBeep

/-- R71: decoding the code of any command gives the command back, and a byte decodes to a command only if it is its code. -/
def Obligations.DecodeAndEncodeAgree : Prop :=
  ∀ i : Instr, i.wf = true ∧ decodeByte (encode i) = .ok i ∧ ∀ b : Byte, decodeByte b = .ok i → b = encode i

/-- R73, R184: the four ranges of R73, 240 codes in all, are exactly the bytes that are no command; a CMD write of one sets ERR
to ILLEGAL_COMMAND and changes nothing else, whatever the state (OVF included, R187 order 1). -/
def Obligations.IllegalCodesOnlySetErr : Prop :=
  (∀ v : Byte, (∀ i, decodeByte v ≠ .ok i) ↔
    ((0x02 ≤ v.toNat ∧ v.toNat ≤ 0x0F) ∨ (0x15 ≤ v.toNat ∧ v.toNat ≤ 0x1F) ∨
     (0x24 ≤ v.toNat ∧ v.toNat ≤ 0x2F) ∨ 0x35 ≤ v.toNat)) ∧
  ((List.range 256).filter fun n =>
    decide (decodeByte (BitVec.ofNat 8 n) = .error (.illegalCommand (BitVec.ofNat 8 n)))).length = 240 ∧
  ∀ (s : State) (rest : List HostEvent) (v : Byte), s.pending = .write 0x00#8 v :: rest →
    ((0x02 ≤ v.toNat ∧ v.toNat ≤ 0x0F) ∨ (0x15 ≤ v.toNat ∧ v.toNat ≤ 0x1F) ∨
     (0x24 ≤ v.toNat ∧ v.toNat ≤ 0x2F) ∨ 0x35 ≤ v.toNat) →
    step s = .next { s with pending := rest, err := .illegalCommand }

/-- R76: the pseudo-instructions are the accesses their expansions give, in order. -/
def Obligations.PseudoInstructionsExpand : Prop :=
  (∀ (b : Byte) (bytes : List Byte), load (b :: bytes) =
    .write 0x00#8 0x01#8 :: .write 0x04#8 b :: append bytes) ∧ load [] = [.write 0x00#8 0x01#8] ∧
  (∀ (b : Byte) (bytes : List Byte), append (b :: bytes) = .write 0x04#8 b :: append bytes) ∧ append [] = [] ∧
  (∀ v, crcbyte v = [.write 0x03#8 v, .write 0x00#8 0x11#8]) ∧
  (∀ v, lookupOf .readinessStatus v = [.write 0x03#8 v, .write 0x00#8 0x30#8]) ∧
  (∀ v, lookupOf .paperType v = [.write 0x03#8 v, .write 0x00#8 0x31#8]) ∧
  (∀ v, lookupOf .paperColor v = [.write 0x03#8 v, .write 0x00#8 0x32#8]) ∧
  (∀ v, lookupOf .timeoutSetting v = [.write 0x03#8 v, .write 0x00#8 0x33#8]) ∧
  (∀ v, lookupOf .beepSetting v = [.write 0x03#8 v, .write 0x00#8 0x34#8]) ∧
  rd16Crc = [.read 0x08#8, .read 0x09#8] ∧ rd16Rxc = [.read 0x0A#8, .read 0x0B#8]

/-- R63: no read changes the block; a write to CMD runs a command; a write to FBDATA appends to FB (what the append does is
`FbdataWriteAppendsOrDrops`); a write to DIN or FBPTR stores its byte; a write to anything else is ignored. -/
def Obligations.ReadsAndPlainWritesHaveNoOtherEffect : Prop :=
  ∀ (s : State) (rest : List HostEvent) (offset v : Byte),
    (s.pending = .read offset :: rest →
      step s = .next { s with pending := rest, returned := s.returned ++ [readOffset s offset] }) ∧
    (s.pending = .write 0x00#8 v :: rest → ∃ t, step s = .next t ∧
      ((∃ i, decodeByte v = .ok i ∧ exec i { s with pending := rest } = .next t) ∨
       ((∀ i, decodeByte v ≠ .ok i) ∧ t = { s with pending := rest, err := .illegalCommand }))) ∧
    (s.pending = .write 0x04#8 v :: rest → step s = .next (fbAppend v { s with pending := rest })) ∧
    (s.pending = .write 0x03#8 v :: rest → step s = .next { s with pending := rest, din := v }) ∧
    (s.pending = .write 0x06#8 v :: rest → step s = .next { s with pending := rest, fbptr := v }) ∧
    (s.pending = .write offset v :: rest →
      offset ≠ 0x00#8 → offset ≠ 0x03#8 → offset ≠ 0x04#8 → offset ≠ 0x06#8 →
      step s = .next { s with pending := rest })

/-- R45: a read of an unmapped offset returns 0x00, a write to one or to a read-only register is ignored, and neither has any
other effect (ERR included). -/
def Obligations.UnmappedOffsetsReadZeroAndIgnoreWrites : Prop :=
  ∀ (s : State) (rest : List HostEvent) (offset v : Byte),
    (offset = 0x0F#8 ∨ (0x2C ≤ offset.toNat ∧ offset.toNat ≤ 0x2F) ∨ (0x3D ≤ offset.toNat ∧ offset.toNat ≤ 0x3F) ∨
      (0x44 ≤ offset.toNat ∧ offset.toNat ≤ 0x4F) ∨ 0x53 ≤ offset.toNat →
      (s.pending = .read offset :: rest →
        step s = .next { s with pending := rest, returned := s.returned ++ [0x00#8] }) ∧
      (s.pending = .write offset v :: rest → step s = .next { s with pending := rest })) ∧
    ((offset = 0x01#8 ∨ offset = 0x02#8 ∨ offset = 0x05#8 ∨ (0x07 ≤ offset.toNat ∧ offset.toNat ≤ 0x0E) ∨
      (0x10 ≤ offset.toNat ∧ offset.toNat ≤ 0x2B) ∨ (0x30 ≤ offset.toNat ∧ offset.toNat ≤ 0x3C) ∨
      (0x40 ≤ offset.toNat ∧ offset.toNat ≤ 0x43) ∨ (0x50 ≤ offset.toNat ∧ offset.toNat ≤ 0x52)) →
      s.pending = .write offset v :: rest → step s = .next { s with pending := rest })

/-- R52: an FBDATA write with room stores its byte at FB[FBLEN] and raises FBLEN by one, every other FB byte reading as before;
with FB full it drops the byte and sets OVF; neither writes anything else. -/
def Obligations.FbdataWriteAppendsOrDrops : Prop :=
  ∀ (s : State) (rest : List HostEvent) (v : Byte), s.pending = .write 0x04#8 v :: rest →
    (s.fblen.toNat < s.params.fbCap → ∃ t, step s = .next t ∧
      t = { s with pending := rest, fb := t.fb, fblen := s.fblen + 1#8 } ∧
      fbByte t s.fblen.toNat = v ∧ (∀ a, a ≠ s.fblen.toNat → fbByte t a = fbByte s a)) ∧
    (¬ s.fblen.toNat < s.params.fbCap → step s = .next { s with pending := rest, ovf := true })

/-- R52, R76: `load` of any bytes leaves the first FB_CAP of them in FB in the order written, and OVF set exactly when more were
written; nothing else but ERR and FBPTR changes. -/
def Obligations.LoadKeepsTheFirstBytesAndFlagsTheRest : Prop :=
  ∀ (s : State) (rest : List HostEvent) (bytes : List Byte), s.params.wf = true → s.pending = load bytes ++ rest →
    ∃ t, runSteps (bytes.length + 1) s = .next t ∧ frame t = bytes.take s.params.fbCap ∧
      (t.ovf = true ↔ s.params.fbCap < bytes.length) ∧
      t = { s with pending := rest, fb := t.fb, fblen := t.fblen, fbptr := 0#8, ovf := t.ovf, err := .ok }

/-- R31: FBRD returns FB[FBPTR] below FBLEN and 0x00 otherwise, without a side effect, and FB keeps the frame after any command
fails. -/
def Obligations.FbrdReadsBackTheFrame : Prop :=
  (∀ (s : State) (rest : List HostEvent), s.pending = .read 0x07#8 :: rest →
    (s.fbptr.toNat < s.fblen.toNat →
      step s = .next { s with pending := rest, returned := s.returned ++ [fbByte s s.fbptr.toNat] }) ∧
    (¬ s.fbptr.toNat < s.fblen.toNat →
      step s = .next { s with pending := rest, returned := s.returned ++ [0x00#8] })) ∧
  ∀ (i : Instr) (s t : State), exec i s = .next t → t.err ≠ .ok → t.fb = s.fb ∧ t.fblen = s.fblen

/-- R32, R33, R55: reading CRCH then CRCL returns the high byte and the low byte of CRC, so the two make CRC again; the same of
RXCH, RXCL and RXC. -/
def Obligations.ChecksumRegistersReadHighByteFirst : Prop :=
  ∀ (s : State) (rest : List HostEvent),
    (s.pending = rd16Crc ++ rest → ∃ h l, runSteps 2 s =
      .next { s with pending := rest, returned := s.returned ++ [h, l] } ∧
      s.crc.toNat = h.toNat * 256 + l.toNat) ∧
    (s.pending = rd16Rxc ++ rest → ∃ h l, runSteps 2 s =
      .next { s with pending := rest, returned := s.returned ++ [h, l] } ∧
      s.rxc.toNat = h.toNat * 256 + l.toNat)

/-- R181, R34: the numbers that ERR and RKIND read as, and the other stored bytes at their offsets (R26, R27, R29, R30, R35, R36,
R44, R37). -/
def Obligations.StoredRegistersReadAtTheirOffsets : Prop :=
  ∀ s : State, s.params.wf = true →
    readOffset s 0x01#8 = (match s.err with
      | .ok => 0#8 | .checksumMismatch => 1#8 | .malformedResponse => 2#8 | .illegalCommand => 3#8 | .fbOverflow => 4#8) ∧
    readOffset s 0x0C#8 = (match s.rkind with
      | .none => 0#8 | .status => 1#8 | .config => 2#8 | .battery => 3#8 | .ready => 4#8) ∧
    readOffset s 0x02#8 = (if s.ovf then 1#8 else 0#8) ∧ readOffset s 0x03#8 = s.din ∧ readOffset s 0x04#8 = 0#8 ∧
    readOffset s 0x05#8 = s.fblen ∧ readOffset s 0x06#8 = s.fbptr ∧ readOffset s 0x0D#8 = s.plen ∧
    (readOffset s 0x0E#8).toNat = s.params.fbCap ∧ readOffset s 0x50#8 = s.lkidx ∧ readOffset s 0x51#8 = s.lkflg ∧
    readOffset s 0x52#8 = s.lkmin ∧ ∀ i : Fin 16, readOffset s (0x10#8 + BitVec.ofNat 8 i.val) = s.record[i]

/-! ## The views -/

/-- R38, R40: the status and config views are the listed bytes of REC and the listed functions of them. -/
def Obligations.StatusAndConfigViewsAreTheListedBytes : Prop :=
  ∀ s : State,
    readOffset s 0x20#8 = s.record[0] ∧ readOffset s 0x21#8 = s.record[1] ∧ readOffset s 0x22#8 = s.record[4] ∧
    readOffset s 0x23#8 = s.record[6] ∧ readOffset s 0x24#8 = s.record[7] ∧ readOffset s 0x25#8 = s.record[11] ∧
    readOffset s 0x26#8 = s.record[12] ∧ readOffset s 0x27#8 = s.record[13] ∧
    readOffset s 0x29#8 = index .readinessStatus s.record[0] ∧ readOffset s 0x2A#8 = index .paperColor s.record[4] ∧
    readOffset s 0x2B#8 = index .paperType s.record[7] ∧
    readOffset s 0x30#8 = s.record[0] ∧ readOffset s 0x31#8 = s.record[1] ∧ readOffset s 0x32#8 = s.record[2] ∧
    readOffset s 0x33#8 = s.record[3] ∧ readOffset s 0x34#8 = s.record[4] ∧ readOffset s 0x35#8 = s.record[5] ∧
    readOffset s 0x36#8 = s.record[6] ∧ readOffset s 0x37#8 = s.record[7] ∧ readOffset s 0x38#8 = s.record[8] ∧
    readOffset s 0x3A#8 = minutes s.record[7] ∧ readOffset s 0x3B#8 = index .timeoutSetting s.record[7] ∧
    readOffset s 0x3C#8 = index .beepSetting s.record[8]

/-- R39: the bits of S_FLAGS. -/
def Obligations.StatusFlagsAreTheListedBits : Prop :=
  ∀ s : State,
    ((readOffset s 0x28#8).getLsbD 0 = true ↔ s.record[13] = 0x00#8 ∧ s.record[11] = 0x00#8) ∧
    ((readOffset s 0x28#8).getLsbD 1 = true ↔ s.record[0] ∈ [0x00#8, 0x01#8, 0x04#8, 0x20#8]) ∧
    ((readOffset s 0x28#8).getLsbD 2 = true ↔
      s.record[4] = 0x00#8 ∨ (2 ≤ s.record[4].toNat ∧ s.record[4].toNat ≤ 6)) ∧
    ((readOffset s 0x28#8).getLsbD 3 = true ↔ s.record[7].toNat ≤ 2) ∧ (readOffset s 0x28#8).toNat < 16

/-- R41: the bits of C_FLAGS. -/
def Obligations.ConfigFlagsAreTheListedBits : Prop :=
  ∀ s : State,
    ((readOffset s 0x39#8).getLsbD 0 = true ↔ s.record[8] ≠ 0x00#8) ∧
    ((readOffset s 0x39#8).getLsbD 1 = true ↔ s.record[7].toNat ≤ 3) ∧
    ((readOffset s 0x39#8).getLsbD 2 = true ↔ s.record[8].toNat ≤ 1) ∧ (readOffset s 0x39#8).toNat < 8

/-- R42, R43: the battery view; the percentage is the arithmetic value of the two digits, never wrapped, and the flag bits. -/
def Obligations.BatteryViewDecodesBcd : Prop :=
  ∀ s : State,
    readOffset s 0x40#8 = s.record[0] ∧ readOffset s 0x41#8 = s.record[1] ∧
    (readOffset s 0x42#8).toNat = 10 * (s.record[0].toNat / 16) + s.record[0].toNat % 16 ∧
    ((readOffset s 0x43#8).getLsbD 0 = true ↔ s.record[1] ≠ 0x00#8) ∧
    ((readOffset s 0x43#8).getLsbD 1 = true ↔ s.record[1] ≠ 0x00#8) ∧
    ((readOffset s 0x43#8).getLsbD 2 = true ↔ 9 < s.record[0].toNat / 16 ∨ 9 < s.record[0].toNat % 16) ∧
    (readOffset s 0x43#8).toNat < 8

/-! ## The enumerations -/

/-- R140–R145, R152: each enumeration's index for every byte value, 0xFF exactly where the value is not a member, and the
minutes. -/
def Obligations.EnumerationIndicesAreTheListedOnes : Prop :=
  ∀ v : Byte,
    index .readinessStatus v = (if v = 0x00 then 0 else if v = 0x01 then 1 else if v = 0x04 then 2
      else if v = 0x20 then 3 else 0xFF) ∧
    index .paperType v = (if v.toNat ≤ 2 then v else 0xFF) ∧
    index .paperColor v = (if v = 0x00 then 0 else if 2 ≤ v.toNat ∧ v.toNat ≤ 6 then v - 1 else 0xFF) ∧
    index .timeoutSetting v = (if v.toNat ≤ 3 then v else 0xFF) ∧
    index .beepSetting v = (if v.toNat ≤ 1 then v else 0xFF) ∧
    (∀ e, known e v = true ↔ index e v ≠ 0xFF) ∧
    minutes v = (if v = 0x00 then 0 else if v = 0x01 then 15 else if v = 0x02 then 30 else if v = 0x03 then 60 else 0xFF)

/-- R146: for every legal DISPLAY_TEXT the unrecognized index shows "Unknown", whatever the enumeration; the default shows the
member identifiers. -/
def Obligations.UnrecognizedIndexShowsUnknown : Prop :=
  (∀ (p : Params) (e : Enumeration), p.wf = true → displayText p e 0xFF#8 = "Unknown") ∧
  displayText Params.default .readinessStatus 2#8 = "OUT_OF_PAPER" ∧
  displayText Params.default .paperColor 2#8 = "WHITE" ∧ displayText Params.default .timeoutSetting 3#8 = "MINUTES_60" ∧
  chargingText true = "Charging" ∧ chargingText false = "Not Charging"

/-! ## Control commands -/

/-- R170: NOP is code 0x00, completes in every state and changes only ERR; no other command does just that in every state. -/
def Obligations.NopOnlyClearsErr : Prop :=
  decodeByte 0x00#8 = .ok .nop ∧ (∀ s : State, exec .nop s = .next { s with err := .ok }) ∧
  ∀ i : Instr, (∀ s : State, exec i s = .next { s with err := .ok }) → i = .nop

/-- R171: FB_CLR is code 0x01, completes in every state, empties the buffer, erases no byte, changes nothing else, and is the only command that
clears OVF. -/
def Obligations.FbClrEmptiesTheBufferAndOvf : Prop :=
  decodeByte 0x01#8 = .ok .fbClr ∧
  (∀ s : State, exec .fbClr s = .next { s with fblen := 0#8, fbptr := 0#8, ovf := false, err := .ok }) ∧
  ∀ (i : Instr) (s t : State), s.ovf = true → exec i s = .next t → t.ovf = false → i = .fbClr

/-! ## The checksum engine -/

/-- R90: crc_step on the numbers its loop works on: XOR into the low byte, then eight times halve, with XOR of 0xA001 where the
low bit was set. -/
def Obligations.CrcStepIsEightConditionalShifts : Prop :=
  ∀ (c : Word16) (b : Byte), (crcStep c b).toNat =
    (fun x : Nat => if x % 2 = 1 then (x / 2) ^^^ 0xA001 else x / 2)^[8] (c.toNat ^^^ b.toNat)

/-- R99: crc_step is a bijection in the register for each byte and injective in the byte for each register value. -/
def Obligations.CrcStepIsBijectiveInTheRegister : Prop :=
  (∀ b : Byte, Function.Bijective fun c : Word16 => crcStep c b) ∧ ∀ c : Word16, Function.Injective (crcStep c)

/-- R92: `crc16([])`, the check value of "123456789", and two residues that show there is no constant residue. -/
def Obligations.ChecksumReferenceValues : Prop :=
  crc16 [] = 0xFFFF#16 ∧ crc16 [0x31, 0x32, 0x33, 0x34, 0x35, 0x36, 0x37, 0x38, 0x39] = 0x4B37#16 ∧
  crc16 [0x00, 0x40, 0xBF] = 0xB001#16 ∧
  crc16 [0x31, 0x32, 0x33, 0x34, 0x35, 0x36, 0x37, 0x38, 0x39, 0x4B, 0x37] = 0x2121#16

/-- 95_test_vectors.md, L2.1: appending a checksum low byte first, the order R54 forbids, would leave the residue 0 for every
sequence. -/
def Obligations.LowByteFirstWouldLeaveZeroResidue : Prop :=
  ∀ bytes : List Byte, crc16 (bytes ++ [loByte (crc16 bytes), hiByte (crc16 bytes)]) = 0x0000#16

/-- R93: CRC_INIT is code 0x10 and completes in every state; only CRC and ERR change. -/
def Obligations.CrcInitSetsAllOnes : Prop :=
  decodeByte 0x10#8 = .ok .crcInit ∧ ∀ s : State, exec .crcInit s = .next { s with crc := 0xFFFF#16, err := .ok }

/-- R94: CRC_BYTE is code 0x11 and completes in every state, OVF set or not; only CRC and ERR change; CRC_INIT followed by CRC_BYTE for each byte
of a sequence leaves its crc16. -/
def Obligations.CrcByteFeedsDinAndStreamsMatchCrc16 : Prop :=
  decodeByte 0x11#8 = .ok .crcByte ∧
  (∀ s : State, exec .crcByte s = .next { s with crc := crcStep s.crc s.din, err := .ok }) ∧
  ∀ (s : State) (rest : List HostEvent) (bytes : List Byte),
    s.pending = cmd .crcInit ++ bytes.flatMap crcbyte ++ rest →
    ∃ t, runSteps (1 + 2 * bytes.length) s = .next t ∧
      t = { s with pending := rest, crc := crc16 bytes, din := t.din, err := .ok }

/-- R95: CHECKSUM is code 0x12 and puts the crc16 of FB[0..FBLEN) in CRC, or reports FB_OVERFLOW with no other change; FB is not written. -/
def Obligations.ChecksumCoversTheFrame : Prop :=
  decodeByte 0x12#8 = .ok .checksum ∧
  ∀ s : State,
    (s.ovf = false → exec .checksum s =
      .next { s with crc := crc16 ((List.range s.fblen.toNat).map (fbByte s)), err := .ok }) ∧
    (s.ovf = true → exec .checksum s = .next { s with err := .fbOverflow })

/-- R96: APPEND_CRC is code 0x13 and stores the frame's checksum high byte first at FB[FBLEN] and FB[FBLEN+1], every other FB byte reading as
before, or reports FB_OVERFLOW with no other change; after it VALIDATE succeeds with PLEN the old FBLEN. -/
def Obligations.AppendCrcStoresTheChecksumHighByteFirst : Prop :=
  decodeByte 0x13#8 = .ok .appendCrc ∧
  ∀ s : State,
    (s.ovf = false → s.fblen.toNat + 2 ≤ s.params.fbCap → ∃ t, exec .appendCrc s = .next t ∧
      t = { s with fb := t.fb, fblen := s.fblen + 2#8, crc := crc16 (frame s), err := .ok } ∧
      (fbByte t s.fblen.toNat).toNat = (crc16 (frame s)).toNat / 256 ∧
      (fbByte t (s.fblen.toNat + 1)).toNat = (crc16 (frame s)).toNat % 256 ∧
      (∀ a, a ≠ s.fblen.toNat → a ≠ s.fblen.toNat + 1 → fbByte t a = fbByte s a) ∧
      (s.params.wf = true → ∃ u, exec .validate t = .next u ∧ u.err = .ok ∧ u.plen = s.fblen)) ∧
    (s.ovf = true → exec .appendCrc s = .next { s with err := .fbOverflow }) ∧
    (s.params.fbCap < s.fblen.toNat + 2 → exec .appendCrc s = .next { s with err := .fbOverflow })

/-- R97: the four ends of VALIDATE, code 0x14. It compares the crc16 of all bytes but the last two with the two, high byte first; it writes
CRC and RXC only when it gets that far; it changes nothing but CRC, RXC, PLEN and ERR. -/
def Obligations.ValidateComparesTheTrailingChecksum : Prop :=
  decodeByte 0x14#8 = .ok .validate ∧
  ∀ s : State,
    (s.ovf = true → exec .validate s = .next { s with plen := 0#8, err := .fbOverflow }) ∧
    (s.ovf = false → s.fblen.toNat < 2 → exec .validate s = .next { s with plen := 0#8, err := .malformedResponse }) ∧
    (s.ovf = false → 2 ≤ s.fblen.toNat → ∃ c r : Word16,
      c = crc16 ((List.range (s.fblen.toNat - 2)).map (fbByte s)) ∧
      r.toNat = (fbByte s (s.fblen.toNat - 2)).toNat * 256 + (fbByte s (s.fblen.toNat - 1)).toNat ∧
      (c = r → exec .validate s = .next { s with crc := c, rxc := r, plen := s.fblen - 2#8, err := .ok }) ∧
      (c ≠ r → exec .validate s = .next { s with crc := c, rxc := r, plen := 0#8, err := .checksumMismatch }))

/-- R99, first half: for every sequence that fits, loading it, APPEND_CRC and VALIDATE run without an error and PLEN is the
sequence's length. -/
def Obligations.AppendedChecksumAlwaysValidates : Prop :=
  ∀ (s : State) (rest : List HostEvent) (bytes : List Byte), s.params.wf = true → bytes.length + 2 ≤ s.params.fbCap →
    s.pending = load bytes ++ cmd .appendCrc ++ cmd .validate ++ rest →
    cleanRun (bytes.length + 3) s = true ∧
    ∃ t, runSteps (bytes.length + 3) s = .next t ∧ t.err = .ok ∧ t.plen.toNat = bytes.length ∧
      frame t = bytes ++ [hiByte (crc16 bytes), loByte (crc16 bytes)] ∧ t.pending = rest

/-- R99, second half: loading a sequence with its checksum but with any single byte changed, of the sequence or of the checksum,
makes VALIDATE report CHECKSUM_MISMATCH with PLEN 0. -/
def Obligations.AnySingleByteCorruptionIsDetected : Prop :=
  ∀ (s : State) (rest : List HostEvent) (bytes : List Byte) (k : Nat) (v : Byte),
    s.params.wf = true → bytes.length + 2 ≤ s.params.fbCap → k < bytes.length + 2 →
    (bytes ++ [hiByte (crc16 bytes), loByte (crc16 bytes)])[k]? ≠ some v →
    s.pending = load ((bytes ++ [hiByte (crc16 bytes), loByte (crc16 bytes)]).set k v) ++ cmd .validate ++ rest →
    ∃ t, runSteps (bytes.length + 4) s = .next t ∧ t.err = .checksumMismatch ∧ t.plen = 0#8

/-! ## The response decoder -/

/-- R112 with R110: the ends of DEC_STATUS, code 0x20. OVF before length before checksum; CRC and RXC written only when the checksums are
compared; every payload byte kept, whatever its value; REC 0x00 above the payload; nothing else changes. -/
def Obligations.DecStatusCommitsOnlyACheckedFrame : Prop :=
  decodeByte 0x20#8 = .ok .decStatus ∧
  ∀ (s : State) (n : Nat), n = s.params.statusLen.bytes →
    (s.ovf = true → ∃ t, exec .decStatus s = .next t ∧
      t = { s with record := t.record, rkind := .none, plen := 0#8, err := .fbOverflow } ∧
      ∀ k : Fin 16, t.record[k] = 0#8) ∧
    (s.ovf = false → s.fblen.toNat ≠ n + 2 → ∃ t, exec .decStatus s = .next t ∧
      t = { s with record := t.record, rkind := .none, plen := 0#8, err := .malformedResponse } ∧
      ∀ k : Fin 16, t.record[k] = 0#8) ∧
    (s.ovf = false → s.fblen.toNat = n + 2 → ∃ (c r : Word16) (t : State),
      c = crc16 ((List.range n).map (fbByte s)) ∧ r.toNat = (fbByte s n).toNat * 256 + (fbByte s (n + 1)).toNat ∧
      exec .decStatus s = .next t ∧
      (c = r → t = { s with crc := c, rxc := r, record := t.record, rkind := .status, plen := BitVec.ofNat 8 n, err := .ok } ∧
        ∀ k : Fin 16, t.record[k] = if k.val < n then fbByte s k.val else 0#8) ∧
      (c ≠ r → t = { s with crc := c, rxc := r, record := t.record, rkind := .none, plen := 0#8, err := .checksumMismatch } ∧
        ∀ k : Fin 16, t.record[k] = 0#8))

/-- R113 with R110, R111: DEC_CONFIG, code 0x21, commits exactly the 18-byte frames that begin with "CONFIG " (and, with TERM_CHECK, end in CR
LF), payload bytes 7..15; it discards with MALFORMED_RESPONSE otherwise; CRC and RXC are never written. -/
def Obligations.DecConfigCommitsExactlyTheGoodEnvelopes : Prop :=
  decodeByte 0x21#8 = .ok .decConfig ∧
  ∀ s : State,
    (s.ovf = true → ∃ t, exec .decConfig s = .next t ∧
      t = { s with record := t.record, rkind := .none, plen := 0#8, err := .fbOverflow } ∧ ∀ k : Fin 16, t.record[k] = 0#8) ∧
    (s.ovf = false →
      (s.fblen.toNat = 18 ∧ fbByte s 0 = 0x43 ∧ fbByte s 1 = 0x4F ∧ fbByte s 2 = 0x4E ∧ fbByte s 3 = 0x46 ∧
        fbByte s 4 = 0x49 ∧ fbByte s 5 = 0x47 ∧ fbByte s 6 = 0x20 ∧
        (s.params.termCheck = true → fbByte s 16 = 0x0D ∧ fbByte s 17 = 0x0A)) →
      ∃ t, exec .decConfig s = .next t ∧
        t = { s with record := t.record, rkind := .config, plen := 9#8, err := .ok } ∧
        ∀ k : Fin 16, t.record[k] = if k.val < 9 then fbByte s (7 + k.val) else 0#8) ∧
    (s.ovf = false →
      ¬ (s.fblen.toNat = 18 ∧ fbByte s 0 = 0x43 ∧ fbByte s 1 = 0x4F ∧ fbByte s 2 = 0x4E ∧ fbByte s 3 = 0x46 ∧
        fbByte s 4 = 0x49 ∧ fbByte s 5 = 0x47 ∧ fbByte s 6 = 0x20 ∧
        (s.params.termCheck = true → fbByte s 16 = 0x0D ∧ fbByte s 17 = 0x0A)) →
      ∃ t, exec .decConfig s = .next t ∧
        t = { s with record := t.record, rkind := .none, plen := 0#8, err := .malformedResponse } ∧
        ∀ k : Fin 16, t.record[k] = 0#8)

/-- R114 with R110, R111: DEC_BATTERY, code 0x22, commits exactly the 12-byte frames that begin with "BATTERY " (and, with TERM_CHECK, end in
CR LF), payload bytes 8 and 9; it discards with MALFORMED_RESPONSE otherwise; CRC and RXC are never written. -/
def Obligations.DecBatteryCommitsExactlyTheGoodEnvelopes : Prop :=
  decodeByte 0x22#8 = .ok .decBattery ∧
  ∀ s : State,
    (s.ovf = true → ∃ t, exec .decBattery s = .next t ∧
      t = { s with record := t.record, rkind := .none, plen := 0#8, err := .fbOverflow } ∧ ∀ k : Fin 16, t.record[k] = 0#8) ∧
    (s.ovf = false →
      (s.fblen.toNat = 12 ∧ fbByte s 0 = 0x42 ∧ fbByte s 1 = 0x41 ∧ fbByte s 2 = 0x54 ∧ fbByte s 3 = 0x54 ∧
        fbByte s 4 = 0x45 ∧ fbByte s 5 = 0x52 ∧ fbByte s 6 = 0x59 ∧ fbByte s 7 = 0x20 ∧
        (s.params.termCheck = true → fbByte s 10 = 0x0D ∧ fbByte s 11 = 0x0A)) →
      ∃ t, exec .decBattery s = .next t ∧
        t = { s with record := t.record, rkind := .battery, plen := 2#8, err := .ok } ∧
        ∀ k : Fin 16, t.record[k] = if k.val < 2 then fbByte s (8 + k.val) else 0#8) ∧
    (s.ovf = false →
      ¬ (s.fblen.toNat = 12 ∧ fbByte s 0 = 0x42 ∧ fbByte s 1 = 0x41 ∧ fbByte s 2 = 0x54 ∧ fbByte s 3 = 0x54 ∧
        fbByte s 4 = 0x45 ∧ fbByte s 5 = 0x52 ∧ fbByte s 6 = 0x59 ∧ fbByte s 7 = 0x20 ∧
        (s.params.termCheck = true → fbByte s 10 = 0x0D ∧ fbByte s 11 = 0x0A)) →
      ∃ t, exec .decBattery s = .next t ∧
        t = { s with record := t.record, rkind := .none, plen := 0#8, err := .malformedResponse } ∧
        ∀ k : Fin 16, t.record[k] = 0#8)

/-- R115 with R110: DEC_READY, code 0x23, commits every one-byte frame, whatever the byte, and discards every other frame. -/
def Obligations.DecReadyCommitsEveryOneByteFrame : Prop :=
  decodeByte 0x23#8 = .ok .decReady ∧
  ∀ s : State,
    (s.ovf = true → ∃ t, exec .decReady s = .next t ∧
      t = { s with record := t.record, rkind := .none, plen := 0#8, err := .fbOverflow } ∧ ∀ k : Fin 16, t.record[k] = 0#8) ∧
    (s.ovf = false → s.fblen.toNat ≠ 1 → ∃ t, exec .decReady s = .next t ∧
      t = { s with record := t.record, rkind := .none, plen := 0#8, err := .malformedResponse } ∧
      ∀ k : Fin 16, t.record[k] = 0#8) ∧
    (s.ovf = false → s.fblen.toNat = 1 → ∃ t, exec .decReady s = .next t ∧
      t = { s with record := t.record, rkind := .ready, plen := 1#8, err := .ok } ∧
      ∀ k : Fin 16, t.record[k] = if k.val = 0 then fbByte s 0 else 0#8)

/-- R56–R60, R110, R112–R116: a host that loads a status frame, a CONFIG envelope, a BATTERY envelope or a readiness byte with any
payload of the right length, whatever its bytes, and runs the decoder gets exactly that payload in REC, with no command failed. -/
def Obligations.LoadedResponsesDecodeToTheirPayload : Prop :=
  ∀ (s : State) (rest : List HostEvent) (p : List Byte), s.params.wf = true →
    (p.length = s.params.statusLen.bytes →
      s.pending = load (p ++ [hiByte (crc16 p), loByte (crc16 p)]) ++ cmd .decStatus ++ rest →
      cleanRun (p.length + 4) s = true ∧ ∃ t, runSteps (p.length + 4) s = .next t ∧ t.rkind = .status ∧
        t.record.toList.take t.plen.toNat = p ∧ t.pending = rest) ∧
    (p.length = 9 →
      s.pending = load ([0x43, 0x4F, 0x4E, 0x46, 0x49, 0x47, 0x20] ++ p ++ [0x0D, 0x0A]) ++ cmd .decConfig ++ rest →
      cleanRun 20 s = true ∧ ∃ t, runSteps 20 s = .next t ∧ t.rkind = .config ∧
        t.record.toList.take t.plen.toNat = p ∧ t.pending = rest) ∧
    (p.length = 2 →
      s.pending = load ([0x42, 0x41, 0x54, 0x54, 0x45, 0x52, 0x59, 0x20] ++ p ++ [0x0D, 0x0A]) ++ cmd .decBattery ++ rest →
      cleanRun 14 s = true ∧ ∃ t, runSteps 14 s = .next t ∧ t.rkind = .battery ∧
        t.record.toList.take t.plen.toNat = p ∧ t.pending = rest) ∧
    (p.length = 1 → s.pending = load p ++ cmd .decReady ++ rest →
      cleanRun 3 s = true ∧ ∃ t, runSteps 3 s = .next t ∧ t.rkind = .ready ∧
        t.record.toList.take t.plen.toNat = p ∧ t.pending = rest)

/-- R67: two responses loaded without FB_CLR between them are rejected by every DEC_* command, with MALFORMED_RESPONSE, or
FB_OVERFLOW where the bytes overran FB. -/
def Obligations.ConcatenatedResponsesAreRejected : Prop :=
  ∀ (s : State) (rest : List HostEvent) (a b : List Byte) (i : Instr), s.params.wf = true →
    a.length ∈ [1, 12, 16, 18] → b.length ∈ [1, 12, 16, 18] →
    i ∈ [Instr.decStatus, .decConfig, .decBattery, .decReady] → s.pending = load a ++ append b ++ cmd i ++ rest →
    ∃ t, runSteps (a.length + b.length + 2) s = .next t ∧ t.rkind = .none ∧ t.plen = 0#8 ∧
      t.err = if s.params.fbCap < a.length + b.length then .fbOverflow else .malformedResponse

/-- R117 (and 90_conflicts.md C13): what a DEC_* command leaves in REC, RKIND, PLEN and ERR is a function of the frame, OVF and the
parameters alone. -/
def Obligations.DecodeResultDependsOnlyOnTheFrame : Prop :=
  ∀ (i : Instr) (s s' t t' : State), i ∈ [Instr.decStatus, .decConfig, .decBattery, .decReady] →
    s'.params = s.params → s'.ovf = s.ovf → s'.fblen = s.fblen → frame s' = frame s →
    exec i s = .next t → exec i s' = .next t' →
    t'.record = t.record ∧ t'.rkind = t.rkind ∧ t'.plen = t.plen ∧ t'.err = t.err

/-! ## Lookups -/

/-- R147–R151: the five lookups, codes 0x30 to 0x34, complete for every DIN and write LKIDX, LKFLG, LKMIN and ERR, nothing else. -/
def Obligations.LookupsWriteTheirOutputs : Prop :=
  decodeByte 0x30#8 = .ok .lkReady ∧ decodeByte 0x31#8 = .ok .lkPtype ∧ decodeByte 0x32#8 = .ok .lkPcolor ∧
  decodeByte 0x33#8 = .ok .lkTimeout ∧ decodeByte 0x34#8 = .ok .lkBeep ∧
  ∀ s : State,
    exec .lkReady s = .next { s with
      lkidx := if s.din = 0x00 then 0 else if s.din = 0x01 then 1 else if s.din = 0x04 then 2
        else if s.din = 0x20 then 3 else 0xFF,
      lkflg := if s.din ∈ [0x00#8, 0x01#8, 0x04#8, 0x20#8] then 1 else 0, lkmin := 0xFF, err := .ok } ∧
    exec .lkPtype s = .next { s with
      lkidx := if s.din.toNat ≤ 2 then s.din else 0xFF,
      lkflg := if s.din.toNat ≤ 2 then 1 else 0, lkmin := 0xFF, err := .ok } ∧
    exec .lkPcolor s = .next { s with
      lkidx := if s.din = 0x00 then 0 else if 2 ≤ s.din.toNat ∧ s.din.toNat ≤ 6 then s.din - 1 else 0xFF,
      lkflg := if s.din = 0x00 ∨ (2 ≤ s.din.toNat ∧ s.din.toNat ≤ 6) then 1 else 0, lkmin := 0xFF, err := .ok } ∧
    exec .lkTimeout s = .next { s with
      lkidx := if s.din.toNat ≤ 3 then s.din else 0xFF,
      lkflg := if s.din.toNat ≤ 3 then 1 else 0,
      lkmin := if s.din = 0x00 then 0 else if s.din = 0x01 then 15 else if s.din = 0x02 then 30
        else if s.din = 0x03 then 60 else 0xFF, err := .ok } ∧
    exec .lkBeep s = .next { s with
      lkidx := if s.din.toNat ≤ 1 then s.din else 0xFF,
      lkflg := if s.din.toNat ≤ 1 then 1 else 0, lkmin := 0xFF, err := .ok }

/-! ## The whole machine -/

/-- R199: every access has a step: the machine never stops, whatever the state, and no more does any command. -/
def Obligations.EveryStepAnswersANextState : Prop :=
  (∀ s : State, ∃ t, step s = .next t) ∧ ∀ (i : Instr) (s : State), ∃ t, exec i s = .next t

/-- R72: a command writes only the state its row names. -/
def Obligations.CommandsWriteOnlyTheirRow : Prop :=
  ∀ (i : Instr) (s t : State), exec i s = .next t →
    t.params = s.params ∧ t.pending = s.pending ∧ t.returned = s.returned ∧ t.din = s.din ∧
    (i ∉ [Instr.fbClr] → t.fbptr = s.fbptr ∧ t.ovf = s.ovf) ∧
    (i ∉ [Instr.fbClr, .appendCrc] → t.fblen = s.fblen) ∧
    (i ∉ [Instr.appendCrc] → t.fb = s.fb) ∧
    (∀ a, a ≠ s.fblen.toNat → a ≠ s.fblen.toNat + 1 → fbByte t a = fbByte s a) ∧
    (i ∉ [Instr.crcInit, .crcByte, .checksum, .appendCrc, .validate, .decStatus] → t.crc = s.crc) ∧
    (i ∉ [Instr.validate, .decStatus] → t.rxc = s.rxc) ∧
    (i ∉ [Instr.decStatus, .decConfig, .decBattery, .decReady] → t.record = s.record ∧ t.rkind = s.rkind) ∧
    (i ∉ [Instr.validate, .decStatus, .decConfig, .decBattery, .decReady] → t.plen = s.plen) ∧
    (i ∉ [Instr.lkReady, .lkPtype, .lkPcolor, .lkTimeout, .lkBeep] →
      t.lkidx = s.lkidx ∧ t.lkflg = s.lkflg ∧ t.lkmin = s.lkmin)

/-- R25, R188: every command writes ERR, and nothing a command leaves depends on what ERR held before it. -/
def Obligations.EveryCommandOverwritesErr : Prop :=
  ∀ (i : Instr) (s : State) (e : ResultCode), exec i { s with err := e } = exec i s

/-- R183: with OVF set every command that reads FB reports FB_OVERFLOW, and OVF stays set; APPEND_CRC without two free bytes reports
it too. No other command writes that code. (Its rank among the codes, below ILLEGAL_COMMAND: `ErrIsTheFirstCauseInOrder`.) -/
def Obligations.OverflowIsReportedByCommandsThatReadFb : Prop :=
  (∀ s : State, s.params.fbCap < s.fblen.toNat + 2 → exec .appendCrc s = .next { s with err := .fbOverflow }) ∧
  (∀ (i : Instr) (s t : State), exec i s = .next t → t.err = .fbOverflow →
    (s.ovf = true ∧ i ∈ [Instr.checksum, .appendCrc, .validate, .decStatus, .decConfig, .decBattery, .decReady]) ∨
    (i = .appendCrc ∧ s.params.fbCap < s.fblen.toNat + 2)) ∧
  ∀ (i : Instr) (s : State), s.ovf = true →
    i ∈ [Instr.checksum, .appendCrc, .validate, .decStatus, .decConfig, .decBattery, .decReady] →
    ∃ t, exec i s = .next t ∧ t.err = .fbOverflow ∧ t.ovf = true ∧ t.crc = s.crc ∧ t.rxc = s.rxc ∧ t.fb = s.fb ∧
      t.fblen = s.fblen ∧ (i ∈ [Instr.checksum, .appendCrc] → t = { s with err := .fbOverflow }) ∧
      (i = .validate → t = { s with plen := 0#8, err := .fbOverflow }) ∧
      (i ∈ [Instr.decStatus, .decConfig, .decBattery, .decReady] →
        t.rkind = .none ∧ t.plen = 0#8 ∧ ∀ k : Fin 16, t.record[k] = 0#8)

/-- R26: STAT reads OVF in bit 0 and zeros above it. OVF is sticky: a step clears it exactly by FB_CLR or reset, and sets it
exactly by an FBDATA write that finds FB full. -/
def Obligations.OvfIsStickyUntilFbClrOrReset : Prop :=
  ∀ s t : State, step s = .next t →
    readOffset t 0x02#8 = (if t.ovf then 0x01#8 else 0x00#8) ∧
    (s.ovf = true → (t.ovf = false ↔
      s.pending.head? = some .reset ∨ s.pending.head? = some (.write 0x00#8 0x01#8))) ∧
    (s.ovf = false → (t.ovf = true ↔
      (∃ v, s.pending.head? = some (.write 0x04#8 v)) ∧ ¬ s.fblen.toNat < s.params.fbCap))

/-- R117: a record is a snapshot. A step changes REC or RKIND only by a DEC_* command or reset. -/
def Obligations.RecordsChangeOnlyAtDecodeOrReset : Prop :=
  ∀ s t : State, step s = .next t → (t.record ≠ s.record ∨ t.rkind ≠ s.rkind) →
    s.pending.head? = some .reset ∨
    ∃ v, s.pending.head? = some (.write 0x00#8 v) ∧ v ∈ [0x20#8, 0x21#8, 0x22#8, 0x23#8]

/-- R25–R27, R29, R30, R32–R35, R37, R44, R50: reset apart, which events can change each stored register and each byte of FB: a
host write, or the commands that the register's rule names. That no step changes the parameters is the model's choice (log 4). -/
def Obligations.RegistersChangeOnlyByTheirWriters : Prop :=
  ∀ s t : State, step s = .next t → t.params = s.params ∧ (s.pending.head? ≠ some .reset →
    (t.err ≠ s.err → ∃ v, s.pending.head? = some (.write 0x00#8 v)) ∧
    (t.ovf ≠ s.ovf → (∃ v, s.pending.head? = some (.write 0x04#8 v)) ∨ s.pending.head? = some (.write 0x00#8 0x01#8)) ∧
    (t.din ≠ s.din → ∃ v, s.pending.head? = some (.write 0x03#8 v)) ∧
    (t.fblen ≠ s.fblen → (∃ v, s.pending.head? = some (.write 0x04#8 v)) ∨
      ∃ v, s.pending.head? = some (.write 0x00#8 v) ∧ v ∈ [0x01#8, 0x13#8]) ∧
    (t.fbptr ≠ s.fbptr → (∃ v, s.pending.head? = some (.write 0x06#8 v)) ∨
      s.pending.head? = some (.write 0x00#8 0x01#8)) ∧
    (t.crc ≠ s.crc → ∃ v, s.pending.head? = some (.write 0x00#8 v) ∧
      v ∈ [0x10#8, 0x11#8, 0x12#8, 0x13#8, 0x14#8, 0x20#8]) ∧
    (t.rxc ≠ s.rxc → ∃ v, s.pending.head? = some (.write 0x00#8 v) ∧ v ∈ [0x14#8, 0x20#8]) ∧
    ((t.record ≠ s.record ∨ t.rkind ≠ s.rkind) →
      ∃ v, s.pending.head? = some (.write 0x00#8 v) ∧ v ∈ [0x20#8, 0x21#8, 0x22#8, 0x23#8]) ∧
    (t.plen ≠ s.plen → ∃ v, s.pending.head? = some (.write 0x00#8 v) ∧
      v ∈ [0x14#8, 0x20#8, 0x21#8, 0x22#8, 0x23#8]) ∧
    ((t.lkidx ≠ s.lkidx ∨ t.lkflg ≠ s.lkflg ∨ t.lkmin ≠ s.lkmin) →
      ∃ v, s.pending.head? = some (.write 0x00#8 v) ∧ v ∈ [0x30#8, 0x31#8, 0x32#8, 0x33#8, 0x34#8]) ∧
    ∀ a, fbByte t a ≠ fbByte s a →
      (a = s.fblen.toNat ∧ ∃ v, s.pending.head? = some (.write 0x04#8 v)) ∨
      ((a = s.fblen.toNat ∨ a = s.fblen.toNat + 1) ∧ s.pending.head? = some (.write 0x00#8 0x13#8)))

/-- R213, R65: a read right after a command returns that command's results: ERR reads as the code the command ended with, and any
other offset as the state the command left. -/
def Obligations.AReadAfterACommandSeesItsResult : Prop :=
  ∀ (s u : State) (i : Instr) (offset : Byte) (rest : List HostEvent),
    s.pending = cmd i ++ [.read offset] ++ rest → exec i { s with pending := .read offset :: rest } = .next u →
    runSteps 2 s = .next { u with pending := rest, returned := s.returned ++ [readOffset u offset] } ∧
    readOffset u 0x01#8 = ResultCode.toByte u.err

/-- The state right after reset meets the invariant. -/
def Obligations.ResetMeetsTheInvariant : Prop := State.reset.Inv

/-- Every step keeps the invariant, from every state that meets it: legal parameters, FBLEN within FB_CAP, OVF only while FB is
full, FB canonical and inside its bounds with every frame byte written, PLEN, REC, the lookup outputs as the rules leave them. -/
def Obligations.EveryStepKeepsTheInvariant : Prop :=
  ∀ s t : State, s.Inv → step s = .next t → t.Inv

/-- R47, R51: the bytes of FB at FBLEN and above are unobservable. Two states that differ in them alone answer every host program
with the same reads, and differ in nothing else ever after. -/
def Obligations.HiddenBufferBytesAreUnobservable : Prop :=
  ∀ (k : Nat) (s s' t : State), SameObservable s s' → runSteps k s = .next t →
    ∃ t', runSteps k s' = .next t' ∧ SameObservable t t' ∧ t'.returned = t.returned ∧
      ∀ offset, readOffset t' offset = readOffset t offset

/-- R187: the code in ERR after a CMD write is that of the first cause that applies, in R187's order: no command code; OVF, for a
command that reads FB; no room for APPEND_CRC; length, prefix or terminator; the checksum comparison; and OK where none applies. -/
def Obligations.ErrIsTheFirstCauseInOrder : Prop :=
  ∀ (s : State) (rest : List HostEvent) (v : Byte), s.pending = .write 0x00#8 v :: rest →
    ∃ t, step s = .next t ∧ t.err =
      if (0x02 ≤ v.toNat ∧ v.toNat ≤ 0x0F) ∨ (0x15 ≤ v.toNat ∧ v.toNat ≤ 0x1F) ∨
          (0x24 ≤ v.toNat ∧ v.toNat ≤ 0x2F) ∨ 0x35 ≤ v.toNat then .illegalCommand
      else if s.ovf = true ∧ v ∈ [0x12#8, 0x13#8, 0x14#8, 0x20#8, 0x21#8, 0x22#8, 0x23#8] then .fbOverflow
      else if v = 0x13#8 ∧ s.params.fbCap < s.fblen.toNat + 2 then .fbOverflow
      else if (v = 0x14#8 ∧ s.fblen.toNat < 2) ∨ (v = 0x20#8 ∧ s.fblen.toNat ≠ s.params.statusLen.bytes + 2) ∨
          (v = 0x21#8 ∧ (s.fblen.toNat ≠ 18 ∨ memRead s 0 7 ≠ [0x43, 0x4F, 0x4E, 0x46, 0x49, 0x47, 0x20] ∨
            (s.params.termCheck = true ∧ memRead s 16 2 ≠ [0x0D, 0x0A]))) ∨
          (v = 0x22#8 ∧ (s.fblen.toNat ≠ 12 ∨ memRead s 0 8 ≠ [0x42, 0x41, 0x54, 0x54, 0x45, 0x52, 0x59, 0x20] ∨
            (s.params.termCheck = true ∧ memRead s 10 2 ≠ [0x0D, 0x0A]))) ∨
          (v = 0x23#8 ∧ s.fblen.toNat ≠ 1) then .malformedResponse
      else if (v = 0x14#8 ∨ v = 0x20#8) ∧ (crc16 (memRead s 0 (s.fblen.toNat - 2))).toNat ≠
          (fbByte s (s.fblen.toNat - 2)).toNat * 256 + (fbByte s (s.fblen.toNat - 1)).toNat then .checksumMismatch
      else .ok
end

