-- ==== Sys2Proof/Laws/State.lean ====
section
/-! SUPPORT. One lemma per field per named update of the state, true by rfl, so that no later proof unfolds a record update. -/

namespace Sys2Proof.Machine

/-! ### `finish` -/

@[simp] theorem finish_params (s : State) : (finish s).params = s.params := rfl
@[simp] theorem finish_pending (s : State) : (finish s).pending = s.pending := rfl
@[simp] theorem finish_returned (s : State) : (finish s).returned = s.returned := rfl
@[simp] theorem finish_crc (s : State) : (finish s).crc = s.crc := rfl
@[simp] theorem finish_rxc (s : State) : (finish s).rxc = s.rxc := rfl
@[simp] theorem finish_err (s : State) : (finish s).err = .ok := rfl
@[simp] theorem finish_ovf (s : State) : (finish s).ovf = s.ovf := rfl
@[simp] theorem finish_din (s : State) : (finish s).din = s.din := rfl
@[simp] theorem finish_fblen (s : State) : (finish s).fblen = s.fblen := rfl
@[simp] theorem finish_fbptr (s : State) : (finish s).fbptr = s.fbptr := rfl
@[simp] theorem finish_rkind (s : State) : (finish s).rkind = s.rkind := rfl
@[simp] theorem finish_plen (s : State) : (finish s).plen = s.plen := rfl
@[simp] theorem finish_record (s : State) : (finish s).record = s.record := rfl
@[simp] theorem finish_lkidx (s : State) : (finish s).lkidx = s.lkidx := rfl
@[simp] theorem finish_lkflg (s : State) : (finish s).lkflg = s.lkflg := rfl
@[simp] theorem finish_lkmin (s : State) : (finish s).lkmin = s.lkmin := rfl
@[simp] theorem finish_fb (s : State) : (finish s).fb = s.fb := rfl

/-! ### `raise` -/

@[simp] theorem raise_params (c : ResultCode) (s : State) : (raise c s).params = s.params := rfl
@[simp] theorem raise_pending (c : ResultCode) (s : State) : (raise c s).pending = s.pending := rfl
@[simp] theorem raise_returned (c : ResultCode) (s : State) : (raise c s).returned = s.returned := rfl
@[simp] theorem raise_crc (c : ResultCode) (s : State) : (raise c s).crc = s.crc := rfl
@[simp] theorem raise_rxc (c : ResultCode) (s : State) : (raise c s).rxc = s.rxc := rfl
@[simp] theorem raise_err (c : ResultCode) (s : State) : (raise c s).err = c := rfl
@[simp] theorem raise_ovf (c : ResultCode) (s : State) : (raise c s).ovf = s.ovf := rfl
@[simp] theorem raise_din (c : ResultCode) (s : State) : (raise c s).din = s.din := rfl
@[simp] theorem raise_fblen (c : ResultCode) (s : State) : (raise c s).fblen = s.fblen := rfl
@[simp] theorem raise_fbptr (c : ResultCode) (s : State) : (raise c s).fbptr = s.fbptr := rfl
@[simp] theorem raise_rkind (c : ResultCode) (s : State) : (raise c s).rkind = s.rkind := rfl
@[simp] theorem raise_plen (c : ResultCode) (s : State) : (raise c s).plen = s.plen := rfl
@[simp] theorem raise_record (c : ResultCode) (s : State) : (raise c s).record = s.record := rfl
@[simp] theorem raise_lkidx (c : ResultCode) (s : State) : (raise c s).lkidx = s.lkidx := rfl
@[simp] theorem raise_lkflg (c : ResultCode) (s : State) : (raise c s).lkflg = s.lkflg := rfl
@[simp] theorem raise_lkmin (c : ResultCode) (s : State) : (raise c s).lkmin = s.lkmin := rfl
@[simp] theorem raise_fb (c : ResultCode) (s : State) : (raise c s).fb = s.fb := rfl

/-! ### `memWrite` -/

@[simp] theorem memWrite_params (s : State) (i : Nat) (v : List Byte) : (memWrite s i v).params = s.params := rfl
@[simp] theorem memWrite_pending (s : State) (i : Nat) (v : List Byte) : (memWrite s i v).pending = s.pending := rfl
@[simp] theorem memWrite_returned (s : State) (i : Nat) (v : List Byte) : (memWrite s i v).returned = s.returned := rfl
@[simp] theorem memWrite_crc (s : State) (i : Nat) (v : List Byte) : (memWrite s i v).crc = s.crc := rfl
@[simp] theorem memWrite_rxc (s : State) (i : Nat) (v : List Byte) : (memWrite s i v).rxc = s.rxc := rfl
@[simp] theorem memWrite_err (s : State) (i : Nat) (v : List Byte) : (memWrite s i v).err = s.err := rfl
@[simp] theorem memWrite_ovf (s : State) (i : Nat) (v : List Byte) : (memWrite s i v).ovf = s.ovf := rfl
@[simp] theorem memWrite_din (s : State) (i : Nat) (v : List Byte) : (memWrite s i v).din = s.din := rfl
@[simp] theorem memWrite_fblen (s : State) (i : Nat) (v : List Byte) : (memWrite s i v).fblen = s.fblen := rfl
@[simp] theorem memWrite_fbptr (s : State) (i : Nat) (v : List Byte) : (memWrite s i v).fbptr = s.fbptr := rfl
@[simp] theorem memWrite_rkind (s : State) (i : Nat) (v : List Byte) : (memWrite s i v).rkind = s.rkind := rfl
@[simp] theorem memWrite_plen (s : State) (i : Nat) (v : List Byte) : (memWrite s i v).plen = s.plen := rfl
@[simp] theorem memWrite_record (s : State) (i : Nat) (v : List Byte) : (memWrite s i v).record = s.record := rfl
@[simp] theorem memWrite_lkidx (s : State) (i : Nat) (v : List Byte) : (memWrite s i v).lkidx = s.lkidx := rfl
@[simp] theorem memWrite_lkflg (s : State) (i : Nat) (v : List Byte) : (memWrite s i v).lkflg = s.lkflg := rfl
@[simp] theorem memWrite_lkmin (s : State) (i : Nat) (v : List Byte) : (memWrite s i v).lkmin = s.lkmin := rfl
@[simp] theorem memWrite_fb (s : State) (i : Nat) (v : List Byte) : (memWrite s i v).fb = s.fb.writeList i v := rfl

/-! ### `commitRecord` -/

@[simp] theorem commitRecord_params (k : RecordKind) (p : List Byte) (s : State) : (commitRecord k p s).params = s.params := rfl
@[simp] theorem commitRecord_pending (k : RecordKind) (p : List Byte) (s : State) : (commitRecord k p s).pending = s.pending := rfl
@[simp] theorem commitRecord_returned (k : RecordKind) (p : List Byte) (s : State) : (commitRecord k p s).returned = s.returned := rfl
@[simp] theorem commitRecord_crc (k : RecordKind) (p : List Byte) (s : State) : (commitRecord k p s).crc = s.crc := rfl
@[simp] theorem commitRecord_rxc (k : RecordKind) (p : List Byte) (s : State) : (commitRecord k p s).rxc = s.rxc := rfl
@[simp] theorem commitRecord_err (k : RecordKind) (p : List Byte) (s : State) : (commitRecord k p s).err = .ok := rfl
@[simp] theorem commitRecord_ovf (k : RecordKind) (p : List Byte) (s : State) : (commitRecord k p s).ovf = s.ovf := rfl
@[simp] theorem commitRecord_din (k : RecordKind) (p : List Byte) (s : State) : (commitRecord k p s).din = s.din := rfl
@[simp] theorem commitRecord_fblen (k : RecordKind) (p : List Byte) (s : State) : (commitRecord k p s).fblen = s.fblen := rfl
@[simp] theorem commitRecord_fbptr (k : RecordKind) (p : List Byte) (s : State) : (commitRecord k p s).fbptr = s.fbptr := rfl
@[simp] theorem commitRecord_rkind (k : RecordKind) (p : List Byte) (s : State) : (commitRecord k p s).rkind = k := rfl
@[simp] theorem commitRecord_plen (k : RecordKind) (p : List Byte) (s : State) : (commitRecord k p s).plen = BitVec.ofNat 8 p.length := rfl
@[simp] theorem commitRecord_record (k : RecordKind) (p : List Byte) (s : State) : (commitRecord k p s).record = recordOf p := rfl
@[simp] theorem commitRecord_lkidx (k : RecordKind) (p : List Byte) (s : State) : (commitRecord k p s).lkidx = s.lkidx := rfl
@[simp] theorem commitRecord_lkflg (k : RecordKind) (p : List Byte) (s : State) : (commitRecord k p s).lkflg = s.lkflg := rfl
@[simp] theorem commitRecord_lkmin (k : RecordKind) (p : List Byte) (s : State) : (commitRecord k p s).lkmin = s.lkmin := rfl
@[simp] theorem commitRecord_fb (k : RecordKind) (p : List Byte) (s : State) : (commitRecord k p s).fb = s.fb := rfl

/-! ### `discardRecord` -/

@[simp] theorem discardRecord_params (c : ResultCode) (s : State) : (discardRecord c s).params = s.params := rfl
@[simp] theorem discardRecord_pending (c : ResultCode) (s : State) : (discardRecord c s).pending = s.pending := rfl
@[simp] theorem discardRecord_returned (c : ResultCode) (s : State) : (discardRecord c s).returned = s.returned := rfl
@[simp] theorem discardRecord_crc (c : ResultCode) (s : State) : (discardRecord c s).crc = s.crc := rfl
@[simp] theorem discardRecord_rxc (c : ResultCode) (s : State) : (discardRecord c s).rxc = s.rxc := rfl
@[simp] theorem discardRecord_err (c : ResultCode) (s : State) : (discardRecord c s).err = c := rfl
@[simp] theorem discardRecord_ovf (c : ResultCode) (s : State) : (discardRecord c s).ovf = s.ovf := rfl
@[simp] theorem discardRecord_din (c : ResultCode) (s : State) : (discardRecord c s).din = s.din := rfl
@[simp] theorem discardRecord_fblen (c : ResultCode) (s : State) : (discardRecord c s).fblen = s.fblen := rfl
@[simp] theorem discardRecord_fbptr (c : ResultCode) (s : State) : (discardRecord c s).fbptr = s.fbptr := rfl
@[simp] theorem discardRecord_rkind (c : ResultCode) (s : State) : (discardRecord c s).rkind = .none := rfl
@[simp] theorem discardRecord_plen (c : ResultCode) (s : State) : (discardRecord c s).plen = 0#8 := rfl
@[simp] theorem discardRecord_record (c : ResultCode) (s : State) : (discardRecord c s).record = recordOf [] := rfl
@[simp] theorem discardRecord_lkidx (c : ResultCode) (s : State) : (discardRecord c s).lkidx = s.lkidx := rfl
@[simp] theorem discardRecord_lkflg (c : ResultCode) (s : State) : (discardRecord c s).lkflg = s.lkflg := rfl
@[simp] theorem discardRecord_lkmin (c : ResultCode) (s : State) : (discardRecord c s).lkmin = s.lkmin := rfl
@[simp] theorem discardRecord_fb (c : ResultCode) (s : State) : (discardRecord c s).fb = s.fb := rfl

/-! ### `storeChecksums` -/

@[simp] theorem storeChecksums_params (n : Nat) (s : State) : (storeChecksums n s).params = s.params := rfl
@[simp] theorem storeChecksums_pending (n : Nat) (s : State) : (storeChecksums n s).pending = s.pending := rfl
@[simp] theorem storeChecksums_returned (n : Nat) (s : State) : (storeChecksums n s).returned = s.returned := rfl
@[simp] theorem storeChecksums_crc (n : Nat) (s : State) : (storeChecksums n s).crc = crc16 (payload s n) := rfl
@[simp] theorem storeChecksums_rxc (n : Nat) (s : State) : (storeChecksums n s).rxc = receivedCrc s n := rfl
@[simp] theorem storeChecksums_err (n : Nat) (s : State) : (storeChecksums n s).err = s.err := rfl
@[simp] theorem storeChecksums_ovf (n : Nat) (s : State) : (storeChecksums n s).ovf = s.ovf := rfl
@[simp] theorem storeChecksums_din (n : Nat) (s : State) : (storeChecksums n s).din = s.din := rfl
@[simp] theorem storeChecksums_fblen (n : Nat) (s : State) : (storeChecksums n s).fblen = s.fblen := rfl
@[simp] theorem storeChecksums_fbptr (n : Nat) (s : State) : (storeChecksums n s).fbptr = s.fbptr := rfl
@[simp] theorem storeChecksums_rkind (n : Nat) (s : State) : (storeChecksums n s).rkind = s.rkind := rfl
@[simp] theorem storeChecksums_plen (n : Nat) (s : State) : (storeChecksums n s).plen = s.plen := rfl
@[simp] theorem storeChecksums_record (n : Nat) (s : State) : (storeChecksums n s).record = s.record := rfl
@[simp] theorem storeChecksums_lkidx (n : Nat) (s : State) : (storeChecksums n s).lkidx = s.lkidx := rfl
@[simp] theorem storeChecksums_lkflg (n : Nat) (s : State) : (storeChecksums n s).lkflg = s.lkflg := rfl
@[simp] theorem storeChecksums_lkmin (n : Nat) (s : State) : (storeChecksums n s).lkmin = s.lkmin := rfl
@[simp] theorem storeChecksums_fb (n : Nat) (s : State) : (storeChecksums n s).fb = s.fb := rfl

/-! ### `lookup` -/

@[simp] theorem lookup_params (e : Enumeration) (m : Byte) (s : State) : (lookup e m s).params = s.params := rfl
@[simp] theorem lookup_pending (e : Enumeration) (m : Byte) (s : State) : (lookup e m s).pending = s.pending := rfl
@[simp] theorem lookup_returned (e : Enumeration) (m : Byte) (s : State) : (lookup e m s).returned = s.returned := rfl
@[simp] theorem lookup_crc (e : Enumeration) (m : Byte) (s : State) : (lookup e m s).crc = s.crc := rfl
@[simp] theorem lookup_rxc (e : Enumeration) (m : Byte) (s : State) : (lookup e m s).rxc = s.rxc := rfl
@[simp] theorem lookup_err (e : Enumeration) (m : Byte) (s : State) : (lookup e m s).err = .ok := rfl
@[simp] theorem lookup_ovf (e : Enumeration) (m : Byte) (s : State) : (lookup e m s).ovf = s.ovf := rfl
@[simp] theorem lookup_din (e : Enumeration) (m : Byte) (s : State) : (lookup e m s).din = s.din := rfl
@[simp] theorem lookup_fblen (e : Enumeration) (m : Byte) (s : State) : (lookup e m s).fblen = s.fblen := rfl
@[simp] theorem lookup_fbptr (e : Enumeration) (m : Byte) (s : State) : (lookup e m s).fbptr = s.fbptr := rfl
@[simp] theorem lookup_rkind (e : Enumeration) (m : Byte) (s : State) : (lookup e m s).rkind = s.rkind := rfl
@[simp] theorem lookup_plen (e : Enumeration) (m : Byte) (s : State) : (lookup e m s).plen = s.plen := rfl
@[simp] theorem lookup_record (e : Enumeration) (m : Byte) (s : State) : (lookup e m s).record = s.record := rfl
@[simp] theorem lookup_lkidx (e : Enumeration) (m : Byte) (s : State) : (lookup e m s).lkidx = index e s.din := rfl
@[simp] theorem lookup_lkflg (e : Enumeration) (m : Byte) (s : State) : (lookup e m s).lkflg = lookupFlag (known e s.din) := rfl
@[simp] theorem lookup_lkmin (e : Enumeration) (m : Byte) (s : State) : (lookup e m s).lkmin = m := rfl
@[simp] theorem lookup_fb (e : Enumeration) (m : Byte) (s : State) : (lookup e m s).fb = s.fb := rfl

/-! ### `resetBlock` -/

@[simp] theorem resetBlock_params (s : State) : (resetBlock s).params = s.params := rfl
@[simp] theorem resetBlock_pending (s : State) : (resetBlock s).pending = s.pending := rfl
@[simp] theorem resetBlock_returned (s : State) : (resetBlock s).returned = s.returned := rfl
@[simp] theorem resetBlock_crc (s : State) : (resetBlock s).crc = State.reset.crc := rfl
@[simp] theorem resetBlock_rxc (s : State) : (resetBlock s).rxc = State.reset.rxc := rfl
@[simp] theorem resetBlock_err (s : State) : (resetBlock s).err = State.reset.err := rfl
@[simp] theorem resetBlock_ovf (s : State) : (resetBlock s).ovf = State.reset.ovf := rfl
@[simp] theorem resetBlock_din (s : State) : (resetBlock s).din = State.reset.din := rfl
@[simp] theorem resetBlock_fblen (s : State) : (resetBlock s).fblen = State.reset.fblen := rfl
@[simp] theorem resetBlock_fbptr (s : State) : (resetBlock s).fbptr = State.reset.fbptr := rfl
@[simp] theorem resetBlock_rkind (s : State) : (resetBlock s).rkind = State.reset.rkind := rfl
@[simp] theorem resetBlock_plen (s : State) : (resetBlock s).plen = State.reset.plen := rfl
@[simp] theorem resetBlock_record (s : State) : (resetBlock s).record = State.reset.record := rfl
@[simp] theorem resetBlock_lkidx (s : State) : (resetBlock s).lkidx = State.reset.lkidx := rfl
@[simp] theorem resetBlock_lkflg (s : State) : (resetBlock s).lkflg = State.reset.lkflg := rfl
@[simp] theorem resetBlock_lkmin (s : State) : (resetBlock s).lkmin = State.reset.lkmin := rfl
@[simp] theorem resetBlock_fb (s : State) : (resetBlock s).fb = State.reset.fb := rfl

/-! ### `putCommandFirst` -/

@[simp] theorem putCommandFirst_params (v : Byte) (s : State) : (putCommandFirst v s).params = s.params := rfl
@[simp] theorem putCommandFirst_pending (v : Byte) (s : State) : (putCommandFirst v s).pending = .write (offsetOf .cmd) v :: s.pending := rfl
@[simp] theorem putCommandFirst_returned (v : Byte) (s : State) : (putCommandFirst v s).returned = s.returned := rfl
@[simp] theorem putCommandFirst_crc (v : Byte) (s : State) : (putCommandFirst v s).crc = s.crc := rfl
@[simp] theorem putCommandFirst_rxc (v : Byte) (s : State) : (putCommandFirst v s).rxc = s.rxc := rfl
@[simp] theorem putCommandFirst_err (v : Byte) (s : State) : (putCommandFirst v s).err = s.err := rfl
@[simp] theorem putCommandFirst_ovf (v : Byte) (s : State) : (putCommandFirst v s).ovf = s.ovf := rfl
@[simp] theorem putCommandFirst_din (v : Byte) (s : State) : (putCommandFirst v s).din = s.din := rfl
@[simp] theorem putCommandFirst_fblen (v : Byte) (s : State) : (putCommandFirst v s).fblen = s.fblen := rfl
@[simp] theorem putCommandFirst_fbptr (v : Byte) (s : State) : (putCommandFirst v s).fbptr = s.fbptr := rfl
@[simp] theorem putCommandFirst_rkind (v : Byte) (s : State) : (putCommandFirst v s).rkind = s.rkind := rfl
@[simp] theorem putCommandFirst_plen (v : Byte) (s : State) : (putCommandFirst v s).plen = s.plen := rfl
@[simp] theorem putCommandFirst_record (v : Byte) (s : State) : (putCommandFirst v s).record = s.record := rfl
@[simp] theorem putCommandFirst_lkidx (v : Byte) (s : State) : (putCommandFirst v s).lkidx = s.lkidx := rfl
@[simp] theorem putCommandFirst_lkflg (v : Byte) (s : State) : (putCommandFirst v s).lkflg = s.lkflg := rfl
@[simp] theorem putCommandFirst_lkmin (v : Byte) (s : State) : (putCommandFirst v s).lkmin = s.lkmin := rfl
@[simp] theorem putCommandFirst_fb (v : Byte) (s : State) : (putCommandFirst v s).fb = s.fb := rfl

end Sys2Proof.Machine
end

