-- ==== Sys2Proof/Laws/Crc.lean ====
section
/-! SUPPORT. The checksum's laws: feeding lists, the two bytes of a checksum, and the loop's iteration. -/

namespace Sys2Proof.Machine

@[simp] theorem crcFeed_nil (c : Word16) : crcFeed c [] = c := rfl

@[simp] theorem crcFeed_cons (c : Word16) (b : Byte) (bytes : List Byte) :
    crcFeed c (b :: bytes) = crcFeed (crcStep c b) bytes := rfl

theorem crcFeed_append (c : Word16) (a b : List Byte) : crcFeed c (a ++ b) = crcFeed (crcFeed c a) b := by
  simp [crcFeed, List.foldl_append]

theorem crc16_append (a b : List Byte) : crc16 (a ++ b) = crcFeed (crc16 a) b := crcFeed_append _ a b

@[simp] theorem crcIters_zero (c : Word16) : crcIters 0 c = c := rfl

theorem crcIters_succ (k : Nat) (c : Word16) : crcIters (k + 1) c = crcIters k (crcIter c) := rfl

theorem hiByte_toNat (c : Word16) : (hiByte c).toNat = c.toNat / 256 := by
  simp only [hiByte, BitVec.toNat_setWidth, BitVec.toNat_ushiftRight, Nat.shiftRight_eq_div_pow]
  omega

theorem loByte_toNat (c : Word16) : (loByte c).toNat = c.toNat % 256 := by
  simp [loByte, BitVec.toNat_setWidth]

theorem joinBytes_toNat (h l : Byte) : (joinBytes h l).toNat = h.toNat * 256 + l.toNat := by
  simp only [joinBytes, BitVec.toNat_append]
  rw [← Nat.shiftLeft_add_eq_or_of_lt l.isLt, Nat.shiftLeft_eq]

/-- A checksum is its two bytes, high byte first. -/
@[simp] theorem joinBytes_hi_lo (c : Word16) : joinBytes (hiByte c) (loByte c) = c := by
  apply BitVec.eq_of_toNat_eq
  rw [joinBytes_toNat, hiByte_toNat, loByte_toNat]
  omega

/-- The two bytes of a joined value are the two that were joined. -/
theorem joinBytes_inj {h l h' l' : Byte} (e : joinBytes h l = joinBytes h' l') : h = h' ∧ l = l' := by
  have := congrArg BitVec.toNat e
  rw [joinBytes_toNat, joinBytes_toNat] at this
  constructor <;> apply BitVec.eq_of_toNat_eq <;> omega

/-- One iteration of the loop, on numbers. -/
theorem crcIter_toNat (c : Word16) :
    (crcIter c).toNat = if c.toNat % 2 = 1 then (c.toNat / 2) ^^^ 0xA001 else c.toNat / 2 := by
  have h : c.getLsbD 0 = decide (c.toNat % 2 = 1) := by simp [BitVec.getLsbD, Nat.testBit_zero]
  simp only [crcIter, h, decide_eq_true_eq]
  split <;> simp [crcPolyReflected, Nat.shiftRight_eq_div_pow]

/-- One iteration can be undone: bit 15 of its result is the bit that was shifted out (R99). -/
theorem crcIter_injective : Function.Injective crcIter := by
  intro x y h
  have key : ∀ c : Word16, (crcIter c).getLsbD 15 = c.getLsbD 0 := by
    intro c; unfold crcIter; split <;> simp_all [crcPolyReflected]
  have h0 : x.getLsbD 0 = y.getLsbD 0 := by rw [← key, ← key, h]
  have hs : x >>> 1 = y >>> 1 := by
    unfold crcIter at h
    rw [h0] at h
    split at h
    · simpa using h
    · exact h
  apply BitVec.eq_of_getLsbD_eq
  intro i hi
  cases i with
  | zero => exact h0
  | succ i =>
    have := congrArg (fun z => z.getLsbD i) hs
    simpa [Nat.add_comm] using this

end Sys2Proof.Machine
end

