-- ==== Sys2Proof/Laws/Memory.lean ====
section
/-! SUPPORT. The frame buffer's laws: a read after a write, the canonical form that every write keeps, and what consecutive
writes leave. -/

namespace Sys2Proof.Machine

@[simp] theorem Memory.read?_nil (i : Nat) : Memory.read? [] i = none := rfl

theorem Memory.read?_write (m : Memory) (i j : Nat) (v : Byte) :
    (m.write i v).read? j = if j = i then some v else m.read? j := by
  induction m with
  | nil =>
    by_cases h : j = i
    · simp [Memory.write, Memory.read?, h]
    · simp [Memory.write, Memory.read?, h, Ne.symm h]
  | cons a rest ih =>
    obtain ⟨a, w⟩ := a
    simp only [Memory.write]
    split
    · by_cases h : j = i
      · simp [Memory.read?, h]
      · simp [Memory.read?, h, Ne.symm h]
    · split
      · rename_i h; subst h
        by_cases h : j = i
        · simp [Memory.read?, h]
        · simp [Memory.read?, h, Ne.symm h]
      · simp only [Memory.read?, ih]
        by_cases h : j = i
        · subst h; simp; omega
        · simp [h]

@[simp] theorem Memory.read?_write_self (m : Memory) (i : Nat) (v : Byte) : (m.write i v).read? i = some v := by
  simp [Memory.read?_write]

theorem Memory.read?_write_of_ne (m : Memory) {i j : Nat} (v : Byte) (h : j ≠ i) :
    (m.write i v).read? j = m.read? j := by
  simp [Memory.read?_write, h]

/-- What consecutive writes leave at an index: the byte of the list that falls on it, or what was there. -/
theorem Memory.read?_writeList (m : Memory) (i j : Nat) (vs : List Byte) :
    (m.writeList i vs).read? j = if i ≤ j ∧ j < i + vs.length then vs[j - i]? else m.read? j := by
  induction vs generalizing m i with
  | nil => simp only [Memory.writeList, List.length_nil]; split <;> first | omega | rfl
  | cons v vs ih =>
    simp only [Memory.writeList, ih, Memory.read?_write, List.length_cons]
    by_cases h1 : j = i
    · subst h1; simp
    · by_cases h2 : i + 1 ≤ j ∧ j < i + 1 + vs.length
      · have h3 : i ≤ j ∧ j < i + (vs.length + 1) := by omega
        have h4 : j - i = (j - (i + 1)) + 1 := by omega
        simp [h2, h3, h4]
      · rw [if_neg h2, if_neg h1, if_neg (by omega)]

/-- Writing keeps every listed index above a bound that the written index also exceeds. -/
theorem Memory.wf_cons_write {a : Host.Cell} {m : Memory} (h : Memory.wf (a :: m) = true) {i : Nat} (v : Byte)
    (hi : a.1 < i) : Memory.wf (a :: m.write i v) = true := by
  induction m generalizing a with
  | nil => simp [Memory.write, Memory.wf, hi]
  | cons b rest ih =>
    obtain ⟨b, w⟩ := b
    simp only [Memory.wf, Bool.and_eq_true, decide_eq_true_eq] at h
    simp only [Memory.write]
    split
    · rename_i hb
      simp only [Memory.wf, Bool.and_eq_true, decide_eq_true_eq]
      exact ⟨hi, hb, h.2⟩
    · split
      · rename_i hb; subst hb
        cases rest with
        | nil => simp [Memory.wf, hi]
        | cons c rest => simpa [Memory.wf, hi] using h.2
      · simp only [Memory.wf, Bool.and_eq_true, decide_eq_true_eq]
        exact ⟨h.1, ih h.2 (by simp only; omega)⟩

/-- Every write keeps the canonical form. -/
theorem Memory.write_wf {m : Memory} (h : Memory.wf m = true) (i : Nat) (v : Byte) : Memory.wf (m.write i v) = true := by
  cases m with
  | nil => rfl
  | cons a rest =>
    obtain ⟨a, w⟩ := a
    simp only [Memory.write]
    split
    · rename_i ha; simp [Memory.wf, ha, h]
    · split
      · rename_i ha; subst ha
        cases rest with
        | nil => rfl
        | cons b rest => simpa [Memory.wf] using h
      · exact Memory.wf_cons_write h v (by simp only; omega)

/-- Consecutive writes keep the canonical form. -/
theorem Memory.writeList_wf {m : Memory} (h : Memory.wf m = true) (i : Nat) (vs : List Byte) :
    Memory.wf (m.writeList i vs) = true := by
  induction vs generalizing m i with
  | nil => exact h
  | cons v vs ih => exact ih (Memory.write_wf h i v) (i + 1)

/-- Reset memory, with nothing listed, is in canonical form. -/
theorem Memory.reset_wf : Memory.wf State.reset.fb = true := rfl

/-! ### One byte and byte lists of FB -/

/-- FB bytes depend on the buffer alone. -/
theorem fbByte_congr {s t : State} (h : t.fb = s.fb) (i : Nat) : fbByte t i = fbByte s i := by
  simp [fbByte, h]

/-- A byte after MemWrite: the list's byte that falls on it, or what was there. -/
theorem fbByte_memWrite (s : State) (i a : Nat) (v : List Byte) :
    fbByte (memWrite s i v) a = if h : i ≤ a ∧ a < i + v.length then v[a - i]'(by omega) else fbByte s a := by
  simp only [fbByte, memWrite_fb, Memory.read?_writeList]
  by_cases h : i ≤ a ∧ a < i + v.length
  · have h2 : a - i < v.length := by omega
    simp [h, h2]
  · simp [h]

@[simp] theorem memRead_length (s : State) (i n : Nat) : (memRead s i n).length = n := by simp [memRead]

theorem memRead_getElem? (s : State) (i n k : Nat) : (memRead s i n)[k]? = if k < n then some (fbByte s (i + k)) else none := by
  by_cases h : k < n <;> simp [memRead, h]

theorem memRead_getD (s : State) (i n k : Nat) : (memRead s i n).getD k 0 = if k < n then fbByte s (i + k) else 0 := by
  rw [List.getD_eq_getElem?_getD, memRead_getElem?]; split <;> rfl

/-- Byte lists agree where their bytes agree. -/
theorem memRead_congr {s t : State} {i n : Nat} (h : ∀ k, k < n → fbByte t (i + k) = fbByte s (i + k)) :
    memRead t i n = memRead s i n := by
  simp only [memRead, List.map_inj_left, List.mem_range]; exact h

/-- A byte list that covers two consecutive pieces is the two pieces. -/
theorem memRead_add (s : State) (i m n : Nat) : memRead s i (m + n) = memRead s i m ++ memRead s (i + m) n := by
  simp [memRead, List.range_add, Function.comp_def, Nat.add_assoc]

@[simp] theorem memRead_zero (s : State) (i : Nat) : memRead s i 0 = [] := rfl

@[simp] theorem memRead_one (s : State) (i : Nat) : memRead s i 1 = [fbByte s i] := rfl

@[simp] theorem frame_length (s : State) : (frame s).length = frameLen s := by simp [frame]

end Sys2Proof.Machine
end

