-- ==== Sys2Proof/Laws/Step.lean ====
section
/-! SUPPORT. The laws of the bus: which register an offset names, what one event does, and how runs of several steps compose. -/

namespace Sys2Proof.Machine

/-! ### The register map and the decoder -/

@[simp] theorem offsetOf_cmd : offsetOf .cmd = 0x00#8 := by decide
@[simp] theorem offsetOf_din : offsetOf .din = 0x03#8 := by decide
@[simp] theorem offsetOf_fbdata : offsetOf .fbdata = 0x04#8 := by decide
@[simp] theorem offsetOf_fbptr : offsetOf .fbptr = 0x06#8 := by decide

@[simp] theorem regAt_cmd : regAt 0x00#8 = some .cmd := by decide
@[simp] theorem regAt_din : regAt 0x03#8 = some .din := by decide
@[simp] theorem regAt_fbdata : regAt 0x04#8 = some .fbdata := by decide
@[simp] theorem regAt_fbptr : regAt 0x06#8 = some .fbptr := by decide

/-- No other offset names CMD, DIN, FBDATA or FBPTR. -/
theorem regAt_writable_iff : ∀ o : Byte,
    (regAt o = some .cmd ↔ o = 0x00#8) ∧ (regAt o = some .din ↔ o = 0x03#8) ∧
    (regAt o = some .fbdata ↔ o = 0x04#8) ∧ (regAt o = some .fbptr ↔ o = 0x06#8) := by
  decide

/-- Every register is found at its offset. -/
theorem regAt_offsetOf (r : Reg) : regAt (offsetOf r) = some r := by
  cases r with
  | record i => revert i; decide
  | _ => decide

/-! ### One event -/

theorem step_of_nil {s : State} (h : s.pending = []) : step s = .next s := by
  simp [step, takeEvent, h]

theorem step_of_pending {s : State} {e : HostEvent} {rest : List HostEvent} (h : s.pending = e :: rest) :
    step s = hostEvent e { s with pending := rest } := by
  simp [step, takeEvent, h]

theorem hostEvent_write (o v : Byte) (s : State) : hostEvent (.write o v) s = hostWrite o v s := rfl

theorem hostEvent_read (o : Byte) (s : State) :
    hostEvent (.read o) s = .next { s with returned := s.returned ++ [readOffset s o] } := rfl

theorem hostEvent_reset (s : State) : hostEvent .reset s = .next (resetBlock s) := rfl

@[simp] theorem hostWrite_cmd (v : Byte) (s : State) : hostWrite 0x00#8 v s = runCommand v s := by simp [hostWrite]

@[simp] theorem hostWrite_din (v : Byte) (s : State) : hostWrite 0x03#8 v s = .next { s with din := v } := by
  simp [hostWrite]

@[simp] theorem hostWrite_fbdata (v : Byte) (s : State) : hostWrite 0x04#8 v s = .next (fbAppend v s) := by
  simp [hostWrite]

@[simp] theorem hostWrite_fbptr (v : Byte) (s : State) : hostWrite 0x06#8 v s = .next { s with fbptr := v } := by
  simp [hostWrite]

theorem hostWrite_ignored {o : Byte} (v : Byte) (s : State) (h0 : o ≠ 0x00#8) (h3 : o ≠ 0x03#8) (h4 : o ≠ 0x04#8)
    (h6 : o ≠ 0x06#8) : hostWrite o v s = .next s := by
  obtain ⟨k0, k3, k4, k6⟩ := regAt_writable_iff o
  unfold hostWrite
  split <;> simp_all

theorem runCommand_of_ok {v : Byte} {i : Instr} (h : decodeByte v = .ok i) (s : State) : runCommand v s = exec i s := by
  simp [runCommand, h]

theorem runCommand_of_error {v : Byte} {r : DecodeReject} (h : decodeByte v = .error r) (s : State) :
    runCommand v s = .next { s with err := .illegalCommand } := by
  simp [runCommand, h, execIllegal, raise]

/-- Everything a step can do: nothing with no event pending, or the one event it takes. -/
theorem step_cases {s t : State} (h : step s = .next t) :
    (s.pending = [] ∧ t = s) ∨
    ∃ e rest, s.pending = e :: rest ∧
      ((∃ v i, e = .write 0x00#8 v ∧ decodeByte v = .ok i ∧ exec i { s with pending := rest } = .next t) ∨
       (∃ v r, e = .write 0x00#8 v ∧ decodeByte v = .error r ∧ t = { s with pending := rest, err := .illegalCommand }) ∨
       (∃ v, e = .write 0x03#8 v ∧ t = { s with pending := rest, din := v }) ∨
       (∃ v, e = .write 0x04#8 v ∧ t = fbAppend v { s with pending := rest }) ∨
       (∃ v, e = .write 0x06#8 v ∧ t = { s with pending := rest, fbptr := v }) ∨
       (∃ o v, e = .write o v ∧ o ≠ 0x00#8 ∧ o ≠ 0x03#8 ∧ o ≠ 0x04#8 ∧ o ≠ 0x06#8 ∧ t = { s with pending := rest }) ∨
       (∃ o, e = .read o ∧
         t = { s with pending := rest, returned := s.returned ++ [readOffset { s with pending := rest } o] }) ∨
       (e = .reset ∧ t = resetBlock { s with pending := rest })) := by
  cases hp : s.pending with
  | nil => rw [step_of_nil hp] at h; cases h; exact .inl ⟨rfl, rfl⟩
  | cons e rest =>
    rw [step_of_pending hp] at h
    refine .inr ⟨e, rest, rfl, ?_⟩
    cases e with
    | reset => cases h; simp
    | read o => cases h; simp
    | write o v =>
      rw [hostEvent_write] at h
      by_cases h0 : o = 0x00#8
      · subst h0
        rw [hostWrite_cmd] at h
        cases hv : decodeByte v with
        | ok i => rw [runCommand_of_ok hv] at h; exact .inl ⟨v, i, rfl, hv, h⟩
        | error r => rw [runCommand_of_error hv] at h; cases h; exact .inr (.inl ⟨v, r, rfl, hv, rfl⟩)
      · by_cases h3 : o = 0x03#8
        · subst h3; rw [hostWrite_din] at h; cases h; simp
        · by_cases h4 : o = 0x04#8
          · subst h4; rw [hostWrite_fbdata] at h; cases h; simp
          · by_cases h6 : o = 0x06#8
            · subst h6; rw [hostWrite_fbptr] at h; cases h; simp
            · rw [hostWrite_ignored v _ h0 h3 h4 h6] at h; cases h
              refine .inr (.inr (.inr (.inr (.inr (.inl ⟨o, v, rfl, h0, h3, h4, h6, rfl⟩)))))

/-! ### Several steps -/

@[simp] theorem runSteps_zero (s : State) : runSteps 0 s = .next s := rfl

theorem runSteps_succ_of {k : Nat} {s t : State} (h : step s = .next t) : runSteps (k + 1) s = runSteps k t := by
  simp [runSteps, h]

theorem runSteps_add_of {j : Nat} {s t : State} (k : Nat) (h : runSteps j s = .next t) :
    runSteps (j + k) s = runSteps k t := by
  induction j generalizing s with
  | zero => cases h; simp
  | succ j ih =>
    rw [Nat.add_right_comm]
    simp only [runSteps] at h ⊢
    split at h
    · exact ih h
    · cases h
    · cases h

/-- The host's own run is the model's. -/
theorem core_run_eq_runSteps (k : Nat) (s : State) : Host.Core.run Sys2Proof.core k s = runSteps k s := by
  induction k generalizing s with
  | zero => rfl
  | succ k ih =>
    cases h : step s with
    | next t =>
      have hc : Sys2Proof.core.step s = .next t := h
      simp only [Host.Core.run, hc, runSteps, h]
      exact ih t
    | fault r => cases r
    | refused r =>
      have hc : Sys2Proof.core.step s = .refused r := h
      simp only [Host.Core.run, hc, runSteps, h]
      rfl

/-- A clean run of a first part and of the rest is a clean run. -/
theorem cleanRun_add_of {j : Nat} {s t : State} (k : Nat) (h : runSteps j s = .next t) :
    cleanRun (j + k) s = (cleanRun j s && cleanRun k t) := by
  induction j generalizing s with
  | zero => cases h; simp [cleanRun]
  | succ j ih =>
    rw [Nat.add_right_comm]
    simp only [runSteps, cleanRun] at h ⊢
    split at h
    · simp [ih h, Bool.and_assoc]
    · cases h
    · cases h

end Sys2Proof.Machine
end

