-- ==== Sys2Proof/Laws/Ops.lean ====
section
/-! SUPPORT. One lemma for each shared operation that says everything it does: appending a byte, the record of a payload, the
envelope check, the end of an envelope's decode, the flag bytes and the enumerations. -/

namespace Sys2Proof.Machine

/-- FBDATA (R52): with room the byte lands at FB[FBLEN], otherwise only OVF is set. -/
theorem fbAppend_of_room {v : Byte} {s : State} (h : s.fblen.toNat < s.params.fbCap) :
    fbAppend v s = { s with fb := s.fb.write s.fblen.toNat v, fblen := s.fblen + 1#8 } := by
  simp [fbAppend, h, memWrite, Memory.writeList]

theorem fbAppend_of_full {v : Byte} {s : State} (h : ¬ s.fblen.toNat < s.params.fbCap) :
    fbAppend v s = { s with ovf := true } := by
  simp [fbAppend, h]

/-- FBLEN + 1 does not wrap below a legal FB_CAP. -/
theorem fblen_succ_toNat {s : State} (hp : s.params.wf = true) (h : s.fblen.toNat < s.params.fbCap) :
    (s.fblen + 1#8).toNat = s.fblen.toNat + 1 := by
  simp only [Params.wf, Params.capLegal, Bool.and_eq_true, decide_eq_true_eq] at hp
  simp only [BitVec.toNat_add, BitVec.toNat_ofNat]
  omega

/-- FBLEN + 2 does not wrap where APPEND_CRC has room. -/
theorem fblen_add_two_toNat {s : State} (hp : s.params.wf = true) (h : s.fblen.toNat + 2 ≤ s.params.fbCap) :
    (s.fblen + 2#8).toNat = s.fblen.toNat + 2 := by
  simp only [Params.wf, Params.capLegal, Bool.and_eq_true, decide_eq_true_eq] at hp
  simp only [BitVec.toNat_add, BitVec.toNat_ofNat]
  omega

/-- Appending a byte extends the frame by it. -/
theorem frame_fbAppend {v : Byte} {s : State} (hp : s.params.wf = true) (h : s.fblen.toNat < s.params.fbCap) :
    frame (fbAppend v s) = frame s ++ [v] := by
  rw [fbAppend_of_room h]
  simp only [frame, frameLen, fblen_succ_toNat hp h, memRead_add, Nat.zero_add, memRead_one]
  congr 1
  · apply memRead_congr
    intro k hk
    have hk' : 0 + k ≠ s.fblen.toNat := by omega
    simp only [fbByte, Memory.read?_write_of_ne _ _ hk']
  · simp [fbByte]

/-- REC after a commit or a discard, byte by byte (R37, R110). -/
theorem recordOf_getElem (p : List Byte) (k : Fin 16) : (recordOf p)[k] = p.getD k.val 0 := by
  fin_cases k <;> rfl

@[simp] theorem recordOf_nil_getElem (k : Fin 16) : (recordOf [])[k] = 0#8 := by
  rw [recordOf_getElem]; simp

/-- When `env_check` gives a payload, and which (R111). -/
theorem envCheck_eq_some_iff {pre p : List Byte} {n : Nat} {s : State} :
    envCheck pre n s = some p ↔
      memRead s 0 pre.length = pre ∧ frameLen s = pre.length + n + 2 ∧
      (s.params.termCheck = true → memRead s (frameLen s - 2) 2 = [0x0D, 0x0A]) ∧ p = memRead s pre.length n := by
  have ht : envelopeTrailerLen = 2 := rfl
  have hl : memRead s 0 pre.length = pre ∨ memRead s 0 pre.length ≠ pre := em _
  simp only [envCheck]
  rw [ht]
  constructor
  · intro h
    split at h
    · cases h
    · split at h
      · cases h
      · split at h
        · cases h
        · split at h
          · cases h
          · cases h
            simp_all [envelopeTerminator]
  · rintro ⟨h1, h2, h3, rfl⟩
    have h4 : ¬ (s.params.termCheck = true ∧ memRead s (frameLen s - 2) 2 ≠ envelopeTerminator) := by
      simpa [envelopeTerminator] using h3
    rw [if_neg (by omega), if_neg (not_not.2 h1), if_neg (not_not.2 h2), if_neg h4]

/-- Everything DEC_CONFIG and DEC_BATTERY can do (R113, R114). -/
theorem decodeEnvelope_cases (k : RecordKind) (pre : List Byte) (n : Nat) (s : State) :
    (s.ovf = true ∧ decodeEnvelope k pre n s = discardRecord .fbOverflow s) ∨
    (s.ovf = false ∧ envCheck pre n s = none ∧ decodeEnvelope k pre n s = discardRecord .malformedResponse s) ∨
    (s.ovf = false ∧ envCheck pre n s = some (memRead s pre.length n) ∧
      decodeEnvelope k pre n s = commitRecord k (memRead s pre.length n) s) := by
  unfold decodeEnvelope
  cases s.ovf with
  | true => simp
  | false =>
    cases h : envCheck pre n s with
    | none => simp
    | some p => obtain ⟨-, -, -, rfl⟩ := envCheck_eq_some_iff.1 h; simp

/-- Everything DEC_STATUS can do (R112). -/
theorem execDecStatus_cases (s : State) :
    (s.ovf = true ∧ execDecStatus s = .next (discardRecord .fbOverflow s)) ∨
    (s.ovf = false ∧ frameLen s ≠ statusPayloadLen s + 2 ∧ execDecStatus s = .next (discardRecord .malformedResponse s)) ∨
    (s.ovf = false ∧ frameLen s = statusPayloadLen s + 2 ∧
      crc16 (payload s (statusPayloadLen s)) ≠ receivedCrc s (statusPayloadLen s) ∧
      execDecStatus s = .next (discardRecord .checksumMismatch (storeChecksums (statusPayloadLen s) s))) ∨
    (s.ovf = false ∧ frameLen s = statusPayloadLen s + 2 ∧
      crc16 (payload s (statusPayloadLen s)) = receivedCrc s (statusPayloadLen s) ∧
      execDecStatus s =
        .next (commitRecord .status (payload s (statusPayloadLen s)) (storeChecksums (statusPayloadLen s) s))) := by
  unfold execDecStatus
  have hc : crcLen = 2 := rfl
  rw [hc]
  generalize statusPayloadLen s = n
  cases s.ovf <;> by_cases h1 : frameLen s = n + 2 <;> by_cases h2 : crc16 (payload s n) = receivedCrc s n <;> simp [h1, h2]

/-- Everything DEC_READY can do (R115). -/
theorem execDecReady_cases (s : State) :
    (s.ovf = true ∧ execDecReady s = .next (discardRecord .fbOverflow s)) ∨
    (s.ovf = false ∧ frameLen s ≠ 1 ∧ execDecReady s = .next (discardRecord .malformedResponse s)) ∨
    (s.ovf = false ∧ frameLen s = 1 ∧ execDecReady s = .next (commitRecord .ready [fbByte s 0] s)) := by
  unfold execDecReady
  have hc : readyFrameLen = 1 := rfl
  rw [hc]
  cases s.ovf <;> by_cases h1 : frameLen s = 1 <;> simp [h1]

/-- Everything VALIDATE can do (R97). -/
theorem execValidate_cases (s : State) :
    (s.ovf = true ∧ execValidate s = .next (raise .fbOverflow { s with plen := 0#8 })) ∨
    (s.ovf = false ∧ frameLen s < 2 ∧ execValidate s = .next (raise .malformedResponse { s with plen := 0#8 })) ∨
    (s.ovf = false ∧ 2 ≤ frameLen s ∧ crc16 (payload s (frameLen s - 2)) ≠ receivedCrc s (frameLen s - 2) ∧
      execValidate s = .next (raise .checksumMismatch { storeChecksums (frameLen s - 2) s with plen := 0#8 })) ∨
    (s.ovf = false ∧ 2 ≤ frameLen s ∧ crc16 (payload s (frameLen s - 2)) = receivedCrc s (frameLen s - 2) ∧
      execValidate s = .next (finish { storeChecksums (frameLen s - 2) s with plen := s.fblen - 2#8 })) := by
  unfold execValidate
  have hc : crcLen = 2 := rfl
  rw [hc]
  generalize hn : frameLen s - 2 = n
  cases s.ovf <;> by_cases h1 : frameLen s < 2 <;> by_cases h2 : crc16 (payload s n) = receivedCrc s n <;>
    simp [h1, h2] <;> omega

/-- Everything APPEND_CRC can do (R96). -/
theorem execAppendCrc_cases (s : State) :
    ((s.ovf = true ∨ s.params.fbCap < frameLen s + 2) ∧ execAppendCrc s = .next (raise .fbOverflow s)) ∨
    (s.ovf = false ∧ frameLen s + 2 ≤ s.params.fbCap ∧ execAppendCrc s =
      .next (finish { memWrite s (frameLen s) [hiByte (crc16 (frame s)), loByte (crc16 (frame s))] with
        fblen := s.fblen + 2#8, crc := crc16 (frame s) })) := by
  unfold execAppendCrc
  have hc : crcLen = 2 := rfl
  rw [hc]
  cases s.ovf <;> by_cases h1 : s.params.fbCap < frameLen s + 2 <;> simp [h1] <;> omega

/-- The bits of a flag byte. -/
theorem flagByte_bits : ∀ a b c d : Bool, (flagByte a b c d).getLsbD 0 = a ∧ (flagByte a b c d).getLsbD 1 = b ∧
    (flagByte a b c d).getLsbD 2 = c ∧ (flagByte a b c d).getLsbD 3 = d ∧ (flagByte a b c d).toNat < 16 ∧
    (d = false → (flagByte a b c d).toNat < 8) := by
  decide

/-- A lookup's two outputs agree (R44, R140). -/
theorem lookup_outputs_agree (e : Enumeration) : ∀ v : Byte,
    (lookupFlag (known e v) = 0x01#8 ∧ (index e v).toNat ≤ 5) ∨
    (lookupFlag (known e v) = 0x00#8 ∧ index e v = 0xFF#8) := by
  cases e <;> decide

end Sys2Proof.Machine
end

