-- ==== Sys2Proof/Laws/Frame.lean ====
section
/-! SUPPORT. The frame as a list: what commands read of FB is a piece of `frame s`, what the host's FBDATA writes and APPEND_CRC
leave is a longer frame, and the two commands that compare checksums, said of the frame. -/

namespace Sys2Proof.Machine

/-- A byte of the frame is the byte of FB at its index. -/
theorem frame_getElem? (s : State) (k : Nat) : (frame s)[k]? = if k < frameLen s then some (fbByte s k) else none := by
  simp [frame, memRead_getElem?]

/-- What a command reads of FB inside the frame is that piece of the frame. -/
theorem memRead_eq_drop_take (s : State) {i n : Nat} (h : i + n ≤ frameLen s) : memRead s i n = ((frame s).drop i).take n := by
  apply List.ext_getElem?
  intro k
  rw [memRead_getElem?, List.getElem?_take]
  by_cases hk : k < n
  · rw [if_pos hk, if_pos hk, List.getElem?_drop, frame_getElem?, if_pos (by omega)]
  · rw [if_neg hk, if_neg hk]

theorem payload_eq_take (s : State) {n : Nat} (h : n ≤ frameLen s) : payload s n = (frame s).take n := by
  rw [payload, memRead_eq_drop_take s (by omega), List.drop_zero]

/-- A frame that ends in two bytes: its payload, the checksum it carries and its length. -/
theorem frame_ends {s : State} {p : List Byte} {h l : Byte} (hf : frame s = p ++ [h, l]) :
    frameLen s = p.length + 2 ∧ payload s p.length = p ∧ receivedCrc s p.length = joinBytes h l := by
  have hlen : frameLen s = p.length + 2 := by rw [← frame_length, hf]; simp
  have h0 : (frame s)[p.length]? = some h := by rw [hf]; simp
  have h1 : (frame s)[p.length + 1]? = some l := by rw [hf]; simp
  rw [frame_getElem?, if_pos (by omega)] at h0 h1
  refine ⟨hlen, ?_, ?_⟩
  · rw [payload_eq_take s (by omega), hf]; simp
  · rw [receivedCrc, Option.some.inj h0, Option.some.inj h1]

/-- VALIDATE on a frame that ends in two bytes (R97). -/
theorem execValidate_of_frame {s : State} {p : List Byte} {h l : Byte} (ho : s.ovf = false) (hf : frame s = p ++ [h, l]) :
    execValidate s = if crc16 p = joinBytes h l
      then .next (finish { storeChecksums p.length s with plen := s.fblen - 2#8 })
      else .next (raise .checksumMismatch { storeChecksums p.length s with plen := 0#8 }) := by
  obtain ⟨hlen, hpay, hrx⟩ := frame_ends hf
  have h2 : ¬ (p.length + 2 < crcLen) := by simp [crcLen]
  have h3 : p.length + 2 - crcLen = p.length := by simp [crcLen]
  simp only [execValidate, ho, hlen, Bool.false_eq_true, if_false, if_neg h2, h3, hpay, hrx]
  by_cases hc : crc16 p = joinBytes h l <;> simp [hc]

/-- DEC_STATUS on a frame of the right length (R112). -/
theorem execDecStatus_of_frame {s : State} {p : List Byte} {h l : Byte} (ho : s.ovf = false)
    (hn : p.length = s.params.statusLen.bytes) (hf : frame s = p ++ [h, l]) :
    execDecStatus s = if crc16 p = joinBytes h l
      then .next (commitRecord .status p (storeChecksums p.length s))
      else .next (discardRecord .checksumMismatch (storeChecksums p.length s)) := by
  obtain ⟨hlen, hpay, hrx⟩ := frame_ends hf
  simp only [execDecStatus, ho, statusPayloadLen, ← hn, hlen, hpay, hrx, Bool.false_eq_true, if_false]
  have h2 : ¬ (p.length + 2 ≠ p.length + crcLen) := by simp [crcLen]
  rw [if_neg h2]
  by_cases hc : crc16 p = joinBytes h l <;> simp [hc]

/-- The frame after a MemWrite at its end that FBLEN then takes in. -/
theorem frame_memWrite_end {s t : State} {v : List Byte} (hfb : t.fb = (memWrite s (frameLen s) v).fb)
    (hlen : frameLen t = frameLen s + v.length) : frame t = frame s ++ v := by
  have hb : ∀ a, fbByte t a = fbByte (memWrite s (frameLen s) v) a := fbByte_congr hfb
  apply List.ext_getElem?
  intro k
  rw [frame_getElem?, hb, fbByte_memWrite, hlen]
  by_cases h1 : k < frameLen s
  · rw [if_pos (by omega), dif_neg (by omega), List.getElem?_append_left (by simpa using h1), frame_getElem?, if_pos h1]
  · rw [List.getElem?_append_right (by simpa using h1), frame_length]
    by_cases h2 : k < frameLen s + v.length
    · rw [if_pos h2, dif_pos (by omega), List.getElem?_eq_getElem]
    · rw [if_neg h2, List.getElem?_eq_none (by omega)]

/-- APPEND_CRC with room extends the frame by its checksum, high byte first (R96). -/
theorem execAppendCrc_of_room {s : State} (hw : s.params.wf = true) (ho : s.ovf = false)
    (hr : frameLen s + 2 ≤ s.params.fbCap) :
    ∃ t, execAppendCrc s = .next t ∧ frame t = frame s ++ [hiByte (crc16 (frame s)), loByte (crc16 (frame s))] ∧
      t = { s with fb := t.fb, fblen := s.fblen + 2#8, crc := crc16 (frame s), err := .ok } := by
  have h2 : ¬ (frameLen s + crcLen > s.params.fbCap) := by simp only [crcLen]; omega
  refine ⟨_, by simp only [execAppendCrc, ho, Bool.false_eq_true, if_false, if_neg h2]; rfl, ?_, rfl⟩
  exact frame_memWrite_end rfl (fblen_add_two_toNat hw hr)

/-- What FBDATA writes of a list of bytes leave, one after another. -/
def fbAppendAll (bytes : List Byte) (s : State) : State := bytes.foldl (fun s b => fbAppend b s) s

/-- An FBDATA write touches FB, FBLEN and OVF alone. -/
theorem fbAppend_frame (v : Byte) (s : State) :
    fbAppend v s = { s with fb := (fbAppend v s).fb, fblen := (fbAppend v s).fblen, ovf := (fbAppend v s).ovf } := by
  by_cases h : s.fblen.toNat < s.params.fbCap
  · rw [fbAppend_of_room h]
  · rw [fbAppend_of_full h]

theorem fbAppend_withPending (v : Byte) (s : State) (l : List HostEvent) :
    fbAppend v { s with pending := l } = { fbAppend v s with pending := l } := by
  by_cases h : s.fblen.toNat < s.params.fbCap
  · rw [fbAppend_of_room h, fbAppend_of_room (by exact h)]
  · rw [fbAppend_of_full h, fbAppend_of_full (by exact h)]

theorem fbAppend_params (v : Byte) (s : State) : (fbAppend v s).params = s.params := by rw [fbAppend_frame]

/-- FBDATA writes of a list of bytes (R52): the frame grows until FB is full and the rest is dropped, with OVF set. -/
theorem fbAppendAll_spec (bytes : List Byte) (s : State) (hw : s.params.wf = true) (hle : s.fblen.toNat ≤ s.params.fbCap) :
    frame (fbAppendAll bytes s) = (frame s ++ bytes).take s.params.fbCap ∧
    ((fbAppendAll bytes s).ovf = true ↔ s.ovf = true ∨ s.params.fbCap < s.fblen.toNat + bytes.length) ∧
    fbAppendAll bytes s = { s with
      fb := (fbAppendAll bytes s).fb, fblen := (fbAppendAll bytes s).fblen, ovf := (fbAppendAll bytes s).ovf } := by
  induction bytes generalizing s with
  | nil =>
    refine ⟨?_, ?_, rfl⟩
    · rw [List.append_nil, List.take_of_length_le]
      · rfl
      · rw [frame_length]; exact hle
    · simp only [fbAppendAll, List.foldl_nil, List.length_nil, Nat.add_zero]
      constructor
      · exact .inl
      · rintro (h | h)
        · exact h
        · omega
  | cons b bytes ih =>
    have hcons : fbAppendAll (b :: bytes) s = fbAppendAll bytes (fbAppend b s) := rfl
    have hpar := fbAppend_params b s
    rw [hcons]
    by_cases h : s.fblen.toNat < s.params.fbCap
    · have hl : (fbAppend b s).fblen.toNat = s.fblen.toNat + 1 := by
        rw [fbAppend_of_room h]; exact fblen_succ_toNat hw h
      have ho : (fbAppend b s).ovf = s.ovf := by rw [fbAppend_of_room h]
      obtain ⟨h1, h2, h3⟩ := ih (fbAppend b s) (by rw [hpar]; exact hw) (by rw [hpar, hl]; exact h)
      refine ⟨?_, ?_, ?_⟩
      · rw [h1, frame_fbAppend hw h, hpar, List.append_assoc]; rfl
      · rw [h2, hpar, hl, ho, List.length_cons, Nat.add_assoc, Nat.add_comm 1]
      · rw [h3, fbAppend_frame]
    · have hu := fbAppend_of_full (v := b) h
      have hcap : (frame s).length = s.params.fbCap := by rw [frame_length, frameLen]; omega
      obtain ⟨h1, h2, h3⟩ := ih (fbAppend b s) (by rw [hpar]; exact hw) (by rw [hpar, hu]; exact hle)
      refine ⟨?_, ?_, ?_⟩
      · have hf : frame (fbAppend b s) = frame s := by rw [hu]; rfl
        rw [h1, hf, hpar, ← hcap]; simp
      · rw [h2, hpar, hu, List.length_cons]
        constructor
        · intro _; right; omega
        · intro _; left; rfl
      · rw [h3, fbAppend_frame]

/-- A host that writes a list of bytes to FBDATA takes one step a byte. -/
theorem runSteps_append (bytes : List Byte) (s : State) (rest : List HostEvent) (hp : s.pending = append bytes ++ rest) :
    runSteps bytes.length s = .next (fbAppendAll bytes { s with pending := rest }) := by
  induction bytes generalizing s with
  | nil =>
    have hr : s.pending = rest := hp
    subst hr; rfl
  | cons b bytes ih =>
    have hp' : s.pending = .write 0x04#8 b :: (append bytes ++ rest) := hp
    have hs : step s = .next { fbAppend b s with pending := append bytes ++ rest } := by
      rw [step_of_pending hp', hostEvent_write, hostWrite_fbdata]
      exact congrArg Host.Outcome.next (fbAppend_withPending b s _)
    rw [List.length_cons, runSteps_succ_of hs, ih _ rfl]
    exact congrArg (fun u => Host.Outcome.next (fbAppendAll bytes u)) (fbAppend_withPending b s rest).symm

end Sys2Proof.Machine
end

