-- ==== Sys2Proof/Laws/PerInstr.lean ====
section
/-! SUPPORT. One law for every command, one lemma for each constructor: the fields of its code are those of a row of the
command map, the decoder gives it back from its code and from the table's numbering, and it is well formed (30_encoding.md
R70, R71, R72). -/

namespace Sys2Proof.Laws.Format

/-- What holds of a command as syntax: its code's GRP and SUB fields name it in the command map, with a group of R70, and decoding
its code gives it back. -/
def Statement (i : Instr) : Prop :=
  i.wf = true ∧ grpField (encode i) < 4 ∧ ⟨grpField (encode i), subField (encode i), i⟩ ∈ opcodeTable ∧
  decodeByte (encode i) = .ok i ∧ decodeTableWord 8 (encode i).toNat = some i

theorem nop : Statement .nop := by unfold Statement; decide
theorem fbClr : Statement .fbClr := by unfold Statement; decide
theorem crcInit : Statement .crcInit := by unfold Statement; decide
theorem crcByte : Statement .crcByte := by unfold Statement; decide
theorem checksum : Statement .checksum := by unfold Statement; decide
theorem appendCrc : Statement .appendCrc := by unfold Statement; decide
theorem validate : Statement .validate := by unfold Statement; decide
theorem decStatus : Statement .decStatus := by unfold Statement; decide
theorem decConfig : Statement .decConfig := by unfold Statement; decide
theorem decBattery : Statement .decBattery := by unfold Statement; decide
theorem decReady : Statement .decReady := by unfold Statement; decide
theorem lkReady : Statement .lkReady := by unfold Statement; decide
theorem lkPtype : Statement .lkPtype := by unfold Statement; decide
theorem lkPcolor : Statement .lkPcolor := by unfold Statement; decide
theorem lkTimeout : Statement .lkTimeout := by unfold Statement; decide
theorem lkBeep : Statement .lkBeep := by unfold Statement; decide

end Sys2Proof.Laws.Format
end

