-- ==== Sys2Proof/Tests/Slice0.lean ====
section
/-! SUPPORT. Tests whose expected values stand in the spec (95_test_vectors.md, cited by vector; otherwise the rule's own example),
and the witnesses of the statements' premises. -/

open Sys2Proof Sys2Proof.Machine

namespace Sys2Proof.Tests

/-! ## Small states -/

/-- The reset state with bytes loaded as the frame. -/
def loaded (bytes : List Byte) : State :=
  { State.reset with fb := (List.range bytes.length).zip bytes, fblen := BitVec.ofNat 8 bytes.length }

/-- The reset state of an implementation with another FB_CAP. -/
def withCap (cap : Nat) (s : State) : State := { s with params := { s.params with fbCap := cap } }

/-- The reset state with DIN set. -/
def withDin (v : Byte) : State := { State.reset with din := v }

/-- The state a step or a command answers. -/
def nextOf : Host.Outcome State Fault Refusal → Option State
  | .next t => some t
  | .fault _ => none
  | .refused _ => none

/-- What a host reads at offsets after an outcome. -/
def readsAfter (o : Host.Outcome State Fault Refusal) (offsets : List Byte) : Option (List Byte) :=
  (nextOf o).map fun t => offsets.map (readOffset t)

/-- The checks' fixed bytes: D0 §8's status frame (V-DS1), V-DC1's and V-DB1's envelopes. -/
def statusFrame : List Byte :=
  [0x00, 0x00, 0x00, 0x00, 0x03, 0x00, 0x00, 0x01, 0x00, 0x00, 0x00, 0x28, 0x14, 0x0E, 0x00, 0x00, 0x51, 0xB3]

def configFrame : List Byte :=
  [0x43, 0x4F, 0x4E, 0x46, 0x49, 0x47, 0x20, 0xCB, 0x01, 0x02, 0x03, 0x04, 0x05, 0x06, 0x01, 0x01, 0x0D, 0x0A]

def batteryFrame (bcd charging : Byte) : List Byte :=
  [0x42, 0x41, 0x54, 0x54, 0x45, 0x52, 0x59, 0x20, bcd, charging, 0x0D, 0x0A]

/-- A full FB of a default implementation (FB_CAP 32), with OVF set. -/
def overflowed : State := { loaded (List.replicate 32 0x00) with ovf := true }

/-! ## Well-formedness refuses ill-formed terms (no command can be ill-formed, R72) -/

theorem test_wf_default : Params.default.wf = true := by decide
theorem test_wf_refuses_cap_17 : { Params.default with fbCap := 17 }.wf = false := by decide
theorem test_wf_refuses_cap_256 : { Params.default with fbCap := 256 }.wf = false := by decide
theorem test_wf_refuses_text_of_unrecognized :
    { Params.default with displayText := [((.paperType, 0xFF), "NONE")] }.wf = false := by decide

/-! ## Decoding: every command's word, its fields GRP and SUB written out in bits from R70 and R71 -/

theorem test_decode_nop : decodeByte 0b00000000#8 = .ok .nop := by decide
theorem test_decode_fbClr : decodeByte 0b00000001#8 = .ok .fbClr := by decide
theorem test_decode_crcInit : decodeByte 0b00010000#8 = .ok .crcInit := by decide
theorem test_decode_crcByte : decodeByte 0b00010001#8 = .ok .crcByte := by decide
theorem test_decode_checksum : decodeByte 0b00010010#8 = .ok .checksum := by decide
theorem test_decode_appendCrc : decodeByte 0b00010011#8 = .ok .appendCrc := by decide
theorem test_decode_validate : decodeByte 0b00010100#8 = .ok .validate := by decide
theorem test_decode_decStatus : decodeByte 0b00100000#8 = .ok .decStatus := by decide
theorem test_decode_decConfig : decodeByte 0b00100001#8 = .ok .decConfig := by decide
theorem test_decode_decBattery : decodeByte 0b00100010#8 = .ok .decBattery := by decide
theorem test_decode_decReady : decodeByte 0b00100011#8 = .ok .decReady := by decide
theorem test_decode_lkReady : decodeByte 0b00110000#8 = .ok .lkReady := by decide
theorem test_decode_lkPtype : decodeByte 0b00110001#8 = .ok .lkPtype := by decide
theorem test_decode_lkPcolor : decodeByte 0b00110010#8 = .ok .lkPcolor := by decide
theorem test_decode_lkTimeout : decodeByte 0b00110011#8 = .ok .lkTimeout := by decide
theorem test_decode_lkBeep : decodeByte 0b00110100#8 = .ok .lkBeep := by decide

/-- R73: the codes next to each group are rejected by name. -/
theorem test_decode_rejects :
    [0x02#8, 0x0F#8, 0x15#8, 0x1F#8, 0x24#8, 0x2F#8, 0x35#8, 0x7E#8, 0xFF#8].map decodeByte =
      [0x02#8, 0x0F#8, 0x15#8, 0x1F#8, 0x24#8, 0x2F#8, 0x35#8, 0x7E#8, 0xFF#8].map
        fun b => .error (.illegalCommand b) := by decide

theorem test_decodeBytes_takes_one : decodeBytes [0x14, 0xFF] = .ok (.validate, [0xFF]) := by decide
theorem test_decodeTableWord : decodeTableWord 8 0x21 = some .decConfig ∧ decodeTableWord 8 0x16 = none := by decide

/-! ## The checksum functions (L2.1) -/

/-- R90's bit-by-bit trace of crc_step(0xFFFF, 0x00). -/
theorem test_crcIter_trace :
    [1, 2, 3, 4, 5, 6, 7, 8].map (fun k => crcIters k 0xFFFF#16) =
      [0xDFFE, 0x6FFF, 0x97FE, 0x4BFF, 0x85FE, 0x42FF, 0x817E, 0x40BF] := by decide +kernel

/-- Single steps of L2.1. -/
theorem test_crcStep_vectors :
    crcStep 0x0000 0x01 = 0xC0C1 ∧ crcStep 0x1234 0xFF = 0x9753 ∧ crcStep 0xFFFF 0x41 = 0x707F ∧ crcStep 0x8000 0x00 = 0x0080 := by
  decide +kernel

/-- V-CRC-8, V-CRC-11, V-CRC-13, V-CRC-15. -/
theorem test_crc16_vectors :
    crc16 [0x31, 0x32, 0x33, 0x34, 0x35, 0x36, 0x37, 0x38, 0x39] = 0x4B37 ∧ crc16 [0x1B, 0x21, 0x6F, 0x0D, 0x0A] = 0xB4FE ∧
    crc16 (statusFrame.take 16) = 0x51B3 ∧ crc16 [0xFF, 0xFF] = 0x0000 := by decide +kernel

/-! ## One step each: offsets read are ERR 01, STAT 02, FBLEN 05, FBPTR 06, CRC 08 09, RXC 0A 0B, RKIND 0C, PLEN 0D -/

/-- R170's example: ERR = 1 becomes 0, and OVF stays. -/
theorem test_nop : readsAfter (exec .nop { overflowed with err := .checksumMismatch }) [0x01, 0x02, 0x05] = some [0, 1, 32] := by decide

/-- R171's example: FBLEN, FBPTR, STAT and ERR become 0. -/
theorem test_fbClr : readsAfter (exec .fbClr { overflowed with fbptr := 7, err := .fbOverflow }) [0x05, 0x06, 0x02, 0x01] =
    some [0, 0, 0, 0] := by decide

/-- V-CK1. -/
theorem test_crcInit : readsAfter (exec .crcInit { State.reset with crc := 0x1234 }) [0x08, 0x09, 0x01] = some [0xFF, 0xFF, 0] := by
  decide

/-- V-CK4 and, with OVF set, V-CK5. -/
theorem test_crcByte : readsAfter (exec .crcByte { withDin 0xFF with crc := 0x1234 }) [0x08, 0x09] = some [0x97, 0x53] ∧
    readsAfter (exec .crcByte overflowed) [0x01, 0x08, 0x09, 0x02] = some [0, 0x40, 0xBF, 1] := by decide +kernel

/-- V-CK8 and V-CK9. -/
theorem test_checksum : readsAfter (exec .checksum (loaded [0x00])) [0x01, 0x08, 0x09, 0x05] = some [0, 0x40, 0xBF, 1] ∧
    readsAfter (exec .checksum { overflowed with crc := 0x1234 }) [0x01, 0x08, 0x09, 0x02] = some [4, 0x12, 0x34, 1] := by
  decide +kernel

/-- V-CK10. -/
theorem test_appendCrc : (nextOf (exec .appendCrc (loaded [0x41]))).map (fun t => (frame t, t.crc, t.err)) =
    some ([0x41, 0x70, 0x7F], 0x707F, .ok) := by decide +kernel

/-- V-CK13: 31 bytes leave no room in 32. -/
theorem test_appendCrc_no_room : readsAfter (exec .appendCrc (loaded (List.replicate 31 0x00))) [0x01, 0x08, 0x09, 0x05, 0x02] =
    some [4, 0xFF, 0xFF, 31, 0] := by decide +kernel

/-- V-CK16. -/
theorem test_validate_mismatch : readsAfter (exec .validate (loaded [0x41, 0x70, 0x7E])) [0x01, 0x08, 0x09, 0x0A, 0x0B, 0x0D, 0x05] =
    some [1, 0x70, 0x7F, 0x70, 0x7E, 0, 3] := by decide +kernel

/-- V-CK24. -/
theorem test_validate : readsAfter (exec .validate (loaded [0x31, 0x32, 0x33, 0x34, 0x35, 0x36, 0x37, 0x38, 0x39, 0x4B, 0x37]))
    [0x01, 0x0A, 0x0B, 0x0D] = some [0, 0x4B, 0x37, 9] := by decide +kernel

/-- V-DS1: the status view of D0 §8's frame. -/
theorem test_decStatus : readsAfter (exec .decStatus (loaded statusFrame))
    [0x01, 0x0C, 0x0D, 0x20, 0x22, 0x24, 0x25, 0x26, 0x27, 0x28, 0x29, 0x2A, 0x2B] =
      some [0, 1, 16, 0x00, 0x03, 0x01, 0x28, 0x14, 0x0E, 0x0E, 0x00, 0x02, 0x01] := by decide +kernel

/-- V-DS9: STATUS_PAYLOAD_LEN = 14. -/
theorem test_decStatus_fourteen : readsAfter (exec .decStatus
    { loaded [0x00, 0x00, 0x00, 0x00, 0x03, 0x00, 0x00, 0x01, 0x00, 0x00, 0x00, 0x28, 0x14, 0x0E, 0x02, 0x45] with
      params := { Params.default with statusLen := .fourteen } }) [0x01, 0x0C, 0x0D, 0x0A, 0x0B, 0x1D, 0x1E, 0x1F, 0x28] =
      some [0, 1, 14, 0x02, 0x45, 0x0E, 0x00, 0x00, 0x0E] := by decide +kernel

/-- V-DC1: the config view. -/
theorem test_decConfig : readsAfter (exec .decConfig (loaded configFrame))
    [0x01, 0x0C, 0x0D, 0x30, 0x31, 0x36, 0x37, 0x38, 0x39, 0x3A, 0x3B, 0x3C, 0x19] =
      some [0, 2, 9, 0xCB, 0x01, 0x06, 0x01, 0x01, 0x07, 0x0F, 0x01, 0x01, 0x00] := by decide +kernel

/-- V-DC3: with TERM_CHECK a trailer 00 00 is refused. -/
theorem test_decConfig_terminator : readsAfter (exec .decConfig
    { loaded (configFrame.take 16 ++ [0x00, 0x00]) with params := { Params.default with termCheck := true } }) [0x01, 0x0C, 0x0D] =
      some [2, 0, 0] := by decide +kernel

/-- V-DB8: a BCD byte with digits above 9, and a charging byte other than 1. -/
theorem test_decBattery : readsAfter (exec .decBattery (loaded (batteryFrame 0xFF 0x02))) [0x01, 0x0C, 0x0D, 0x40, 0x42, 0x43] =
    some [0, 3, 2, 0xFF, 0xA5, 0x07] := by decide +kernel

/-- V-DB11: no space after BATTERY. -/
theorem test_decBattery_prefix : readsAfter (exec .decBattery
    (loaded [0x42, 0x41, 0x54, 0x54, 0x45, 0x52, 0x59, 0x42, 0x01, 0x0D, 0x0A, 0x00])) [0x01, 0x0C, 0x0D] = some [2, 0, 0] := by
  decide +kernel

/-- V-DR4. -/
theorem test_decReady : readsAfter (exec .decReady (loaded [0x20])) [0x01, 0x0C, 0x0D, 0x20, 0x28, 0x29] =
    some [0, 4, 1, 0x20, 0x0F, 0x03] := by decide +kernel

/-- V-DR10: a failing decode clears the old record. -/
theorem test_decReady_clears : readsAfter (exec .decReady
    { loaded [0x41, 0x42] with rkind := .battery, plen := 2, record := recordOf [0x42, 0x01] }) [0x01, 0x0C, 0x0D, 0x10, 0x11] =
      some [2, 0, 0, 0, 0] := by decide +kernel

/-- V-LK6 and V-LK8: ReadinessStatus is no bit field. -/
theorem test_lkReady : readsAfter (exec .lkReady (withDin 0x05)) [0x50, 0x51, 0x52, 0x01] = some [0xFF, 0x00, 0xFF, 0] ∧
    readsAfter (exec .lkReady (withDin 0x20)) [0x50, 0x51, 0x52, 0x01] = some [0x03, 0x01, 0xFF, 0] := by decide

/-- V-LK14 and V-LK15. -/
theorem test_lkPtype : readsAfter (exec .lkPtype (withDin 0x02)) [0x50, 0x51, 0x52] = some [0x02, 0x01, 0xFF] ∧
    readsAfter (exec .lkPtype (withDin 0x03)) [0x50, 0x51, 0x52] = some [0xFF, 0x00, 0xFF] := by decide

/-- V-LK18 and V-LK23. -/
theorem test_lkPcolor : readsAfter (exec .lkPcolor (withDin 0x01)) [0x50, 0x51, 0x52] = some [0xFF, 0x00, 0xFF] ∧
    readsAfter (exec .lkPcolor (withDin 0x06)) [0x50, 0x51, 0x52] = some [0x05, 0x01, 0xFF] := by decide

/-- V-LK26 and V-LK29. -/
theorem test_lkTimeout : readsAfter (exec .lkTimeout (withDin 0x00)) [0x50, 0x51, 0x52] = some [0x00, 0x01, 0x00] ∧
    readsAfter (exec .lkTimeout (withDin 0x03)) [0x50, 0x51, 0x52] = some [0x03, 0x01, 0x3C] := by decide

/-- V-LK34 and V-LK35. -/
theorem test_lkBeep : readsAfter (exec .lkBeep (withDin 0x01)) [0x50, 0x51, 0x52] = some [0x01, 0x01, 0xFF] ∧
    readsAfter (exec .lkBeep (withDin 0x02)) [0x50, 0x51, 0x52] = some [0xFF, 0x00, 0xFF] := by decide

/-! ## Bus accesses -/

/-- P5: an illegal code sets ERR to 3 even with OVF set, and OVF stays. -/
theorem test_illegal : readsAfter (step { overflowed with pending := [.write 0x00 0x7E] }) [0x01, 0x02] = some [3, 1] := by
  decide +kernel

/-- P5: the 33rd byte is dropped. -/
theorem test_fbdata_full : readsAfter (step { loaded (List.replicate 32 0xAA) with pending := [.write 0x04 0xBB] })
    [0x05, 0x02, 0x01] = some [32, 1, 0] := by decide +kernel

/-- P2: FBRD at FBPTR = 4 reads byte 4 of the frame, without a side effect. -/
theorem test_fbrd : (nextOf (step { loaded statusFrame with fbptr := 4, pending := [.read 0x07] })).map (·.returned) =
    some [0x03] := by decide +kernel

/-- R45: a write to a read-only register changes nothing. -/
theorem test_write_rkind_ignored : nextOf (step { State.reset with pending := [.write 0x0C 0x01] }) = some State.reset := by
  decide +kernel

/-- The reset event on a state with DIN and OVF set (V-RS1). -/
theorem test_reset_event : nextOf (step { withDin 0x55 with ovf := true, pending := [.reset] }) = some State.reset := by
  decide +kernel

/-- A word placed by `withFetchWord` runs as the first command after reset: CHECKSUM of an empty FB (V-CK7), and an illegal one. -/
theorem test_first_word : readsAfter (step (State.reset.withFetchWord 8 0x12)) [0x01, 0x08, 0x09] = some [0, 0xFF, 0xFF] ∧
    readsAfter (step (State.reset.withFetchWord 8 0x02)) [0x01] = some [3] := by decide +kernel

/-! ## Witnesses: for each statement with premises, states and operands that meet them, each clause at the ends of its range -/

/-- The reset state with the host's events to come. -/
def facing (events : List HostEvent) : State := { State.reset with pending := events }

/-- FB_CAP at both ends of its range. -/
theorem witness_StoredRegistersReadAtTheirOffsets : (withCap 18 State.reset).params.wf = true ∧ (withCap 255 State.reset).params.wf = true := by decide

theorem witness_ResetEventLeavesEveryOffsetAtItsResetValue :
    (withCap 18 { overflowed with pending := [.reset] }).params.wf = true ∧
    (withCap 18 { overflowed with pending := [.reset] }).pending = .reset :: [] := by decide

/-- Clauses: the last legal code, the first illegal one after it, and a read of CMD. -/
theorem witness_CmdWriteRunsTheDecodedCommand :
    (facing [.write 0x00 0x34]).pending = .write 0x00#8 0x34 :: [] ∧ decodeByte 0x34 = .ok .lkBeep ∧
    (facing [.write 0x00 0x35]).pending = .write 0x00#8 0x35 :: [] ∧ decodeByte 0x35 = .error (.illegalCommand 0x35) ∧
    (facing [.read 0x00]).pending = .read 0x00#8 :: [] := by decide

theorem witness_FetchedWordIsExecutedNext :
    decodeTableWord 8 0x00 = some .nop ∧ decodeTableWord 8 0x34 = some .lkBeep := by decide

/-- The ends of R73's four ranges. -/
theorem witness_IllegalCodesOnlySetErr :
    ∀ v ∈ [0x02#8, 0x0F#8, 0x15#8, 0x1F#8, 0x24#8, 0x2F#8, 0x35#8, 0xFF#8],
      (facing [.write 0x00 v]).pending = .write 0x00#8 v :: [] ∧
      ((0x02 ≤ v.toNat ∧ v.toNat ≤ 0x0F) ∨ (0x15 ≤ v.toNat ∧ v.toNat ≤ 0x1F) ∨
        (0x24 ≤ v.toNat ∧ v.toNat ≤ 0x2F) ∨ 0x35 ≤ v.toNat) := by decide

/-- Clauses: a read, a CMD write, an FBDATA write, the two plain writes, and ignored writes on both sides of the four written offsets. -/
theorem witness_ReadsAndPlainWritesHaveNoOtherEffect :
    (facing [.read 0xFF]).pending = .read 0xFF#8 :: [] ∧ (facing [.write 0x00 0x14]).pending = .write 0x00#8 0x14 :: [] ∧
    (facing [.write 0x04 0xBB]).pending = .write 0x04#8 0xBB :: [] ∧ (facing [.write 0x03 0x5A]).pending = .write 0x03#8 0x5A :: [] ∧
    (facing [.write 0x06 0xFF]).pending = .write 0x06#8 0xFF :: [] ∧
    ∀ o ∈ [0x01#8, 0x02#8, 0x05#8, 0x07#8, 0xFF#8], (facing [.write o 0x77]).pending = .write o 0x77 :: [] ∧
      o ≠ 0x00#8 ∧ o ≠ 0x03#8 ∧ o ≠ 0x04#8 ∧ o ≠ 0x06#8 := by decide

/-- The ends of the unmapped ranges and of the read-only ranges; no offset is in both. -/
theorem witness_UnmappedOffsetsReadZeroAndIgnoreWrites :
    (∀ o ∈ [0x0F#8, 0x2C#8, 0x2F#8, 0x3D#8, 0x3F#8, 0x44#8, 0x4F#8, 0x53#8, 0xFF#8],
      (facing [.read o]).pending = .read o :: [] ∧ (facing [.write o 0x77]).pending = .write o 0x77 :: [] ∧
      (o = 0x0F#8 ∨ (0x2C ≤ o.toNat ∧ o.toNat ≤ 0x2F) ∨ (0x3D ≤ o.toNat ∧ o.toNat ≤ 0x3F) ∨
        (0x44 ≤ o.toNat ∧ o.toNat ≤ 0x4F) ∨ 0x53 ≤ o.toNat)) ∧
    (∀ o ∈ [0x01#8, 0x02#8, 0x05#8, 0x07#8, 0x0E#8, 0x10#8, 0x2B#8, 0x30#8, 0x3C#8, 0x40#8, 0x43#8, 0x50#8, 0x52#8],
      (facing [.write o 0x77]).pending = .write o 0x77 :: [] ∧
      (o = 0x01#8 ∨ o = 0x02#8 ∨ o = 0x05#8 ∨ (0x07 ≤ o.toNat ∧ o.toNat ≤ 0x0E) ∨
        (0x10 ≤ o.toNat ∧ o.toNat ≤ 0x2B) ∨ (0x30 ≤ o.toNat ∧ o.toNat ≤ 0x3C) ∨
        (0x40 ≤ o.toNat ∧ o.toNat ≤ 0x43) ∨ (0x50 ≤ o.toNat ∧ o.toNat ≤ 0x52))) := by decide

/-- Clauses: one byte of room, and none. -/
theorem witness_FbdataWriteAppendsOrDrops :
    (loaded (List.replicate 31 0x41)).fblen.toNat < (loaded (List.replicate 31 0x41)).params.fbCap ∧
    ¬ overflowed.fblen.toNat < overflowed.params.fbCap ∧
    { overflowed with pending := [.write 0x04 0xBB] }.pending = .write 0x04#8 0xBB :: [] := by decide

/-- Exactly FB_CAP bytes, and one more. -/
theorem witness_LoadKeepsTheFirstBytesAndFlagsTheRest :
    (facing (load (List.replicate 32 0xAA))).params.wf = true ∧
    (facing (load (List.replicate 32 0xAA))).pending = load (List.replicate 32 0xAA) ++ [] ∧
    (facing (load (List.replicate 33 0xAA))).pending = load (List.replicate 33 0xAA) ++ [] := by decide

/-- Clauses: the last index below FBLEN, FBLEN itself, and a command that fails. -/
theorem witness_FbrdReadsBackTheFrame :
    { loaded [0x11, 0x22, 0x33] with fbptr := 2, pending := [.read 0x07] }.pending = .read 0x07#8 :: [] ∧
    (2#8).toNat < (loaded [0x11, 0x22, 0x33]).fblen.toNat ∧ ¬ (3#8).toNat < (loaded [0x11, 0x22, 0x33]).fblen.toNat ∧
    (nextOf (exec .decReady (loaded [0x11, 0x22, 0x33]))).map (·.err) = some .malformedResponse := by decide

theorem witness_ChecksumRegistersReadHighByteFirst :
    (facing rd16Crc).pending = rd16Crc ++ [] ∧ (facing rd16Rxc).pending = rd16Rxc ++ [] := by decide

theorem witness_UnrecognizedIndexShowsUnknown :
    { Params.default with displayText := [((.paperColor, 0x02), "White"), ((.paperColor, 0xFF), "Unknown")] }.wf = true := by decide

theorem witness_NopOnlyClearsErr : ∀ s : State, exec .nop s = .next { s with err := .ok } := fun _ => rfl

theorem witness_FbClrEmptiesTheBufferAndOvf :
    overflowed.ovf = true ∧ (nextOf (exec .fbClr overflowed)).map (·.ovf) = some false := by decide

theorem witness_CrcByteFeedsDinAndStreamsMatchCrc16 :
    (facing (cmd .crcInit ++ [0x31, 0x32, 0x33].flatMap crcbyte)).pending =
      cmd .crcInit ++ [0x31, 0x32, 0x33].flatMap crcbyte ++ [] := by decide

theorem witness_ChecksumCoversTheFrame : (loaded [0x00]).ovf = false ∧ overflowed.ovf = true := by decide

/-- Clauses: exactly two bytes of room, OVF, and one byte of room. -/
theorem witness_AppendCrcStoresTheChecksumHighByteFirst :
    (loaded (List.replicate 30 0x00)).ovf = false ∧ (loaded (List.replicate 30 0x00)).params.wf = true ∧
    (loaded (List.replicate 30 0x00)).fblen.toNat + 2 ≤ (loaded (List.replicate 30 0x00)).params.fbCap ∧ overflowed.ovf = true ∧
    (loaded (List.replicate 31 0x00)).params.fbCap < (loaded (List.replicate 31 0x00)).fblen.toNat + 2 := by decide

/-- Clauses: OVF; one byte; two bytes FF FF, whose checksum agrees (V-CK18), and 00 00, whose does not (V-CK19). -/
theorem witness_ValidateComparesTheTrailingChecksum :
    overflowed.ovf = true ∧ (loaded [0x41]).ovf = false ∧ (loaded [0x41]).fblen.toNat < 2 ∧
    2 ≤ (loaded [0xFF, 0xFF]).fblen.toNat ∧ crc16 [] = joinBytes 0xFF 0xFF ∧
    2 ≤ (loaded [0x00, 0x00]).fblen.toNat ∧ crc16 [] ≠ joinBytes 0x00 0x00 := by decide

/-- The longest sequence that fits. -/
theorem witness_AppendedChecksumAlwaysValidates :
    (facing (load (List.replicate 30 0x00) ++ cmd .appendCrc ++ cmd .validate)).params.wf = true ∧
    (List.replicate 30 (0x00 : Byte)).length + 2 ≤ State.reset.params.fbCap ∧
    (facing (load (List.replicate 30 0x00) ++ cmd .appendCrc ++ cmd .validate)).pending =
      load (List.replicate 30 0x00) ++ cmd .appendCrc ++ cmd .validate ++ [] := by decide

/-- The first byte of the sequence and the last byte of the checksum (V-CK17, V-CK16). -/
theorem witness_AnySingleByteCorruptionIsDetected :
    State.reset.params.wf = true ∧ [(0x41 : Byte)].length + 2 ≤ State.reset.params.fbCap ∧
    (0 < [(0x41 : Byte)].length + 2 ∧ ([0x41] ++ [hiByte (crc16 [0x41]), loByte (crc16 [0x41])])[0]? ≠ some 0x40#8) ∧
    (2 < [(0x41 : Byte)].length + 2 ∧ ([0x41] ++ [hiByte (crc16 [0x41]), loByte (crc16 [0x41])])[2]? ≠ some 0x7E#8) ∧
    (facing (load ([0x41, 0x70, 0x7F].set 2 0x7E) ++ cmd .validate)).pending =
      load (([0x41] ++ [hiByte (crc16 [0x41]), loByte (crc16 [0x41])]).set 2 0x7E) ++ cmd .validate ++ [] := by decide +kernel

/-- Clauses: OVF; one byte too few and one too many; the right length with a right and with a wrong checksum. -/
theorem witness_DecStatusCommitsOnlyACheckedFrame :
    overflowed.ovf = true ∧ (loaded (statusFrame.take 17)).fblen.toNat ≠ StatusLen.sixteen.bytes + 2 ∧
    (loaded (statusFrame ++ [0x00])).fblen.toNat ≠ StatusLen.sixteen.bytes + 2 ∧
    (loaded statusFrame).fblen.toNat = StatusLen.sixteen.bytes + 2 ∧
    (nextOf (exec .decStatus (loaded statusFrame))).map (·.err) = some .ok ∧
    (nextOf (exec .decStatus (loaded (statusFrame.set 17 0xB2)))).map (·.err) = some .checksumMismatch := by decide +kernel

/-- Clauses: OVF; a good envelope, with TERM_CHECK; an envelope with a wrong last prefix byte. -/
theorem witness_DecConfigCommitsExactlyTheGoodEnvelopes :
    overflowed.ovf = true ∧
    (fun s : State => s.ovf = false ∧ (s.fblen.toNat = 18 ∧ fbByte s 0 = 0x43 ∧ fbByte s 1 = 0x4F ∧ fbByte s 2 = 0x4E ∧
      fbByte s 3 = 0x46 ∧ fbByte s 4 = 0x49 ∧ fbByte s 5 = 0x47 ∧ fbByte s 6 = 0x20 ∧
      (s.params.termCheck = true → fbByte s 16 = 0x0D ∧ fbByte s 17 = 0x0A)))
      { loaded configFrame with params := { Params.default with termCheck := true } } ∧
    fbByte (loaded (configFrame.set 6 0x3A)) 6 ≠ 0x20 := by decide +kernel

/-- Clauses: OVF; a good envelope, with TERM_CHECK; an envelope one byte short. -/
theorem witness_DecBatteryCommitsExactlyTheGoodEnvelopes :
    overflowed.ovf = true ∧
    (fun s : State => s.ovf = false ∧ (s.fblen.toNat = 12 ∧ fbByte s 0 = 0x42 ∧ fbByte s 1 = 0x41 ∧ fbByte s 2 = 0x54 ∧
      fbByte s 3 = 0x54 ∧ fbByte s 4 = 0x45 ∧ fbByte s 5 = 0x52 ∧ fbByte s 6 = 0x59 ∧ fbByte s 7 = 0x20 ∧
      (s.params.termCheck = true → fbByte s 10 = 0x0D ∧ fbByte s 11 = 0x0A)))
      { loaded (batteryFrame 0x42 0x01) with params := { Params.default with termCheck := true } } ∧
    (loaded ((batteryFrame 0x42 0x01).take 11)).fblen.toNat ≠ 12 := by decide +kernel

/-- Clauses: OVF; no byte, two bytes; one byte. -/
theorem witness_DecReadyCommitsEveryOneByteFrame :
    overflowed.ovf = true ∧ State.reset.fblen.toNat ≠ 1 ∧ (loaded [0x00, 0x00]).fblen.toNat ≠ 1 ∧
    (loaded [0x20]).ovf = false ∧ (loaded [0x20]).fblen.toNat = 1 := by decide

theorem witness_LoadedResponsesDecodeToTheirPayload :
    State.reset.params.wf = true ∧ (statusFrame.take 16).length = State.reset.params.statusLen.bytes ∧
    (facing (load statusFrame ++ cmd .decStatus)).pending = load (statusFrame.take 16 ++
      [hiByte (crc16 (statusFrame.take 16)), loByte (crc16 (statusFrame.take 16))]) ++ cmd .decStatus ++ [] ∧
    ((configFrame.drop 7).take 9).length = 9 ∧ (facing (load configFrame ++ cmd .decConfig)).pending =
      load ([0x43, 0x4F, 0x4E, 0x46, 0x49, 0x47, 0x20] ++ (configFrame.drop 7).take 9 ++ [0x0D, 0x0A]) ++ cmd .decConfig ++ [] ∧
    [(0x42 : Byte), 0x01].length = 2 ∧ (facing (load (batteryFrame 0x42 0x01) ++ cmd .decBattery)).pending =
      load ([0x42, 0x41, 0x54, 0x54, 0x45, 0x52, 0x59, 0x20] ++ [0x42, 0x01] ++ [0x0D, 0x0A]) ++ cmd .decBattery ++ [] ∧
    [(0x20 : Byte)].length = 1 ∧ (facing (load [0x20] ++ cmd .decReady)).pending = load [0x20] ++ cmd .decReady ++ [] := by
  decide +kernel

/-- The shortest and the longest pair, one within FB_CAP and one beyond it. -/
theorem witness_ConcatenatedResponsesAreRejected :
    State.reset.params.wf = true ∧ [(0x20 : Byte)].length ∈ [1, 12, 16, 18] ∧
    statusFrame.length ∈ [1, 12, 16, 18] ∧ Instr.decReady ∈ [Instr.decStatus, .decConfig, .decBattery, .decReady] ∧
    (facing (load [0x20] ++ append [0x20] ++ cmd .decReady)).pending = load [0x20] ++ append [0x20] ++ cmd .decReady ++ [] ∧
    (facing (load statusFrame ++ append statusFrame ++ cmd .decStatus)).pending =
      load statusFrame ++ append statusFrame ++ cmd .decStatus ++ [] ∧
    State.reset.params.fbCap < statusFrame.length + statusFrame.length := by decide

/-- Two states with one frame that differ elsewhere. -/
theorem witness_DecodeResultDependsOnlyOnTheFrame :
    (fun s s' : State => s'.params = s.params ∧ s'.ovf = s.ovf ∧ s'.fblen = s.fblen ∧ frame s' = frame s ∧ s' ≠ s ∧
      (nextOf (exec .decReady s)).isSome ∧ (nextOf (exec .decReady s')).isSome)
      (loaded [0x20]) { loaded [0x20] with din := 0x55, fb := [(0, 0x20), (7, 0x99)] } := by decide +kernel

/-- Clauses: APPEND_CRC with one byte of room; each of the seven commands, with OVF set. -/
theorem witness_OverflowIsReportedByCommandsThatReadFb :
    (loaded (List.replicate 31 0x00)).params.fbCap < (loaded (List.replicate 31 0x00)).fblen.toNat + 2 ∧
    overflowed.ovf = true ∧ ∀ i ∈ [Instr.checksum, .appendCrc, .validate, .decStatus, .decConfig, .decBattery, .decReady],
      (nextOf (exec i overflowed)).map (·.err) = some .fbOverflow := by decide +kernel

/-- A command that completes, for the statements about an answer `exec i s = next t`. -/
theorem witness_CommandsWriteOnlyTheirRow : (nextOf (exec .appendCrc (loaded [0x41]))).isSome := by decide +kernel

/-- Clauses: OVF cleared by FB_CLR and by reset; OVF set by an FBDATA write. -/
theorem witness_OvfIsStickyUntilFbClrOrReset :
    overflowed.ovf = true ∧ (nextOf (step { overflowed with pending := cmd .fbClr })).map (·.ovf) = some false ∧
    (nextOf (step { overflowed with pending := [.reset] })).map (·.ovf) = some false ∧
    (nextOf (step { loaded (List.replicate 32 0x00) with pending := [.write 0x04 0xBB] })).map (·.ovf) = some true := by
  decide +kernel

theorem witness_RecordsChangeOnlyAtDecodeOrReset :
    (nextOf (step { loaded [0x20] with pending := cmd .decReady })).map (·.rkind) = some .ready ∧
    (loaded [0x20]).rkind = .none := by decide +kernel

/-- A step that changes each register the statement names. -/
theorem witness_RegistersChangeOnlyByTheirWriters :
    (nextOf (step (facing [.write 0x03 0x5A]))).map (·.din) = some 0x5A ∧
    (nextOf (step (facing [.write 0x06 0xFF]))).map (·.fbptr) = some 0xFF ∧
    (nextOf (step (facing [.write 0x04 0x41]))).map (fun t => (t.fblen, fbByte t 0)) = some (1, 0x41) ∧
    (nextOf (step { loaded [0x41] with pending := cmd .appendCrc })).map (fun t => (t.fblen, fbByte t 1, fbByte t 2)) =
      some (3, 0x70, 0x7F) ∧
    (nextOf (step { loaded (List.replicate 32 0x00) with pending := [.write 0x04 0xBB] })).map (·.ovf) = some true ∧
    (nextOf (step { loaded [0x20] with pending := cmd .decReady })).map (fun t => (t.rkind, t.record[0])) = some (.ready, 0x20) ∧
    (nextOf (step { loaded [0x41, 0x70, 0x7F] with pending := cmd .validate })).map (fun t => (t.crc, t.rxc, t.plen)) =
      some (0x707F, 0x707F, 1) ∧
    (nextOf (step (facing [.write 0x00 0x35]))).map (·.err) = some .illegalCommand ∧
    (nextOf (step (facing (cmd .lkBeep)))).map (fun t => (t.lkidx, t.lkflg)) = some (0, 1) := by decide +kernel

theorem witness_AReadAfterACommandSeesItsResult :
    (facing (cmd .validate ++ [.read 0x01])).pending = cmd .validate ++ [.read 0x01] ++ [] ∧
    (nextOf (exec .validate (facing [.read 0x01]))).map (·.err) = some .malformedResponse := by decide

/-- A state of a run that meets the invariant, and a step from it. -/
theorem witness_EveryStepKeepsTheInvariant :
    (loaded [0x41]).Inv ∧ (nextOf (step { loaded [0x41] with pending := cmd .appendCrc })).isSome := by
  refine ⟨⟨by decide, by decide, by decide, by decide, by decide, ?_, by decide, by decide, by decide, by decide⟩, by decide +kernel⟩
  intro i h
  change i < 32
  by_contra hc
  rw [show Memory.read? (loaded [0x41]).fb i = none from if_neg (show ¬ 0 = i by omega)] at h
  cases h

/-- Two states that differ in a byte at FBLEN, where FB_CLR left one. -/
theorem witness_HiddenBufferBytesAreUnobservable :
    SameObservable State.reset { State.reset with fb := [(0, 0x99)] } ∧ runSteps 0 State.reset = .next State.reset :=
  ⟨⟨rfl, fun i h => absurd h (Nat.not_lt_zero i)⟩, rfl⟩

/-- One state for each cause in R187's order, with every later cause present too where one can be: an illegal code under OVF (V-OV3),
OVF on a frame of the wrong length (V-OV4), no room, a wrong length, a wrong checksum, and none. -/
theorem witness_ErrIsTheFirstCauseInOrder :
    (nextOf (step { overflowed with pending := [.write 0x00 0x7E] })).map (·.err) = some .illegalCommand ∧
    (nextOf (step { overflowed with pending := [.write 0x00 0x23] })).map (·.err) = some .fbOverflow ∧
    (nextOf (step { loaded (List.replicate 31 0x00) with pending := [.write 0x00 0x13] })).map (·.err) = some .fbOverflow ∧
    (nextOf (step { loaded (statusFrame.take 17) with pending := [.write 0x00 0x20] })).map (·.err) = some .malformedResponse ∧
    (nextOf (step { loaded (statusFrame.set 17 0xB2) with pending := [.write 0x00 0x20] })).map (·.err) =
      some .checksumMismatch ∧
    (nextOf (step { loaded statusFrame with pending := [.write 0x00 0x20] })).map (·.err) = some .ok := by decide +kernel

end Sys2Proof.Tests
end

section
/-! PROOFS. What a read returns: the register that the row of an offset names (10_state.md R23), whatever the host's side of the
state holds. -/

namespace Sys2Proof.Machine

theorem readOffset_of_regAt {o : Byte} {r : Reg} (h : regAt o = some r) (s : State) : readOffset s o = readReg s r := by
  simp [readOffset, h]

theorem readOffset_of_unmapped {o : Byte} (h : regAt o = none) (s : State) : readOffset s o = 0x00#8 := by
  simp [readOffset, h]

/-- Every register reads at its offset. -/
theorem readOffset_offsetOf (s : State) (r : Reg) : readOffset s (offsetOf r) = readReg s r :=
  readOffset_of_regAt (regAt_offsetOf r) s

/-- Two states whose registers read alike read alike at every offset. -/
theorem readOffset_congr {s t : State} (h : ∀ r, readReg t r = readReg s r) (o : Byte) : readOffset t o = readOffset s o := by
  cases hr : regAt o with
  | none => rw [readOffset_of_unmapped hr, readOffset_of_unmapped hr]
  | some r => rw [readOffset_of_regAt hr, readOffset_of_regAt hr, h]

/-- No register depends on the host's side of the state. -/
theorem readReg_withHost (s : State) (pending : List HostEvent) (returned : List Byte) (r : Reg) :
    readReg { s with pending := pending, returned := returned } r = readReg s r := by
  cases r <;> rfl

theorem readOffset_withHost (s : State) (pending : List HostEvent) (returned : List Byte) (o : Byte) :
    readOffset { s with pending := pending, returned := returned } o = readOffset s o :=
  readOffset_congr (readReg_withHost s pending returned) o

/-- A step that takes a read returns the value of the offset and does nothing else (20_memory.md R63). -/
theorem step_of_read {s : State} {o : Byte} {rest : List HostEvent} (h : s.pending = .read o :: rest) :
    step s = .next { s with pending := rest, returned := s.returned ++ [readOffset s o] } := by
  rw [step_of_pending h, hostEvent_read, readOffset_withHost s rest s.returned]

end Sys2Proof.Machine
end

section
/-! PROOFS. What a command can leave behind: one inversion lemma for `exec`, over the commands of 30_encoding.md R71, and the
frame that follows from it. -/

namespace Sys2Proof.Machine

/-- A byte that decodes to a command is that command's code (R71). -/
theorem eq_encode_of_decodeByte {v : Byte} {i : Instr} (h : decodeByte v = .ok i) : v = encode i := by
  have hrows : ∀ row ∈ opcodeTable, (encode row.instr).toNat = 16 * row.grp + row.sub := by decide
  unfold decodeByte at h
  split at h
  · rename_i row hfind
    cases h
    have hfields := List.find?_some hfind
    simp only [grpField, subField, Bool.and_eq_true, beq_iff_eq] at hfields
    apply BitVec.eq_of_toNat_eq
    rw [hrows row (List.mem_of_find?_eq_some hfind)]
    omega
  · cases h

/-- The state `t` that the command `i` leaves from `s`, one constructor for each way in which a command can end. -/
inductive CommandEnd (s : State) : Instr → State → Prop
  | nop : CommandEnd s .nop (finish s)
  | fbClr : CommandEnd s .fbClr (finish { s with fblen := 0#8, fbptr := 0#8, ovf := false })
  | crc {i : Instr} (c : Word16) (hi : i ∈ [Instr.crcInit, .crcByte, .checksum]) :
      CommandEnd s i (finish { s with crc := c })
  | overflow {i : Instr} (hi : i ∈ [Instr.checksum, .appendCrc]) : CommandEnd s i (raise .fbOverflow s)
  | append (h l : Byte) (c : Word16) (hovf : s.ovf = false) (hroom : frameLen s + 2 ≤ s.params.fbCap) :
      CommandEnd s .appendCrc (finish { memWrite s (frameLen s) [h, l] with fblen := s.fblen + 2#8, crc := c })
  | validate (c r : Word16) (n : Byte) (code : ResultCode) (hn : n = 0#8 ∨ (2 ≤ frameLen s ∧ n = s.fblen - 2#8)) :
      CommandEnd s .validate { s with crc := c, rxc := r, plen := n, err := code }
  | discard {i : Instr} (code : ResultCode) (hi : i ∈ [Instr.decStatus, .decConfig, .decBattery, .decReady]) :
      CommandEnd s i (discardRecord code s)
  | discardStatus (code : ResultCode) (n : Nat) : CommandEnd s .decStatus (discardRecord code (storeChecksums n s))
  | commitStatus (p : List Byte) (n : Nat) (hp : p.length = recordLen s.params .status) :
      CommandEnd s .decStatus (commitRecord .status p (storeChecksums n s))
  | commit {i : Instr} {k : RecordKind} (p : List Byte) (hp : p.length = recordLen s.params k)
      (hi : (i, k) ∈ [(Instr.decConfig, RecordKind.config), (.decBattery, .battery), (.decReady, .ready)]) :
      CommandEnd s i (commitRecord k p s)
  | lookup {i : Instr} (e : Enumeration) (m : Byte) (hm : m ∈ [0x00#8, 0x0F#8, 0x1E#8, 0x3C#8, 0xFF#8])
      (hi : i ∈ [Instr.lkReady, .lkPtype, .lkPcolor, .lkTimeout, .lkBeep]) : CommandEnd s i (lookup e m s)

/-- The minutes of a timeout are listed (42_enum_lookup.md R144). -/
theorem minutes_mem : ∀ v : Byte, minutes v ∈ [0x00#8, 0x0F#8, 0x1E#8, 0x3C#8, 0xFF#8] := by decide

theorem commandEnd_checksum (s : State) : ∃ t, execChecksum s = .next t ∧ CommandEnd s .checksum t := by
  unfold execChecksum
  split
  · exact ⟨_, rfl, .overflow (by decide)⟩
  · exact ⟨_, rfl, .crc _ (by decide)⟩

theorem commandEnd_appendCrc (s : State) : ∃ t, execAppendCrc s = .next t ∧ CommandEnd s .appendCrc t := by
  rcases execAppendCrc_cases s with ⟨-, h⟩ | ⟨hovf, hroom, h⟩
  · exact ⟨_, h, .overflow (by decide)⟩
  · exact ⟨_, h, .append _ _ _ hovf hroom⟩

theorem commandEnd_validate (s : State) : ∃ t, execValidate s = .next t ∧ CommandEnd s .validate t := by
  rcases execValidate_cases s with ⟨-, h⟩ | ⟨-, -, h⟩ | ⟨-, -, -, h⟩ | ⟨-, hlen, -, h⟩
  · exact ⟨_, h, .validate s.crc s.rxc _ _ (.inl rfl)⟩
  · exact ⟨_, h, .validate s.crc s.rxc _ _ (.inl rfl)⟩
  · exact ⟨_, h, .validate _ _ _ _ (.inl rfl)⟩
  · exact ⟨_, h, .validate _ _ _ _ (.inr ⟨hlen, rfl⟩)⟩

theorem commandEnd_decStatus (s : State) : ∃ t, execDecStatus s = .next t ∧ CommandEnd s .decStatus t := by
  rcases execDecStatus_cases s with ⟨-, h⟩ | ⟨-, -, h⟩ | ⟨-, -, -, h⟩ | ⟨-, -, -, h⟩
  · exact ⟨_, h, .discard _ (by decide)⟩
  · exact ⟨_, h, .discard _ (by decide)⟩
  · exact ⟨_, h, .discardStatus _ _⟩
  · exact ⟨_, h, .commitStatus _ _ (memRead_length _ _ _)⟩

/-- A command that has a record kind of its own is a decoder command. -/
theorem mem_decoders_of_mem_kinds {i : Instr} {k : RecordKind}
    (h : (i, k) ∈ [(Instr.decConfig, RecordKind.config), (.decBattery, .battery), (.decReady, .ready)]) :
    i ∈ [Instr.decStatus, .decConfig, .decBattery, .decReady] :=
  List.mem_cons_of_mem _ (List.mem_map_of_mem (f := Prod.fst) h)

/-- DEC_CONFIG and DEC_BATTERY, whose record kind stands for the payload length they ask for. -/
theorem commandEnd_decodeEnvelope {i : Instr} {k : RecordKind} (pre : List Byte) {n : Nat} (s : State)
    (hn : n = recordLen s.params k)
    (hi : (i, k) ∈ [(Instr.decConfig, RecordKind.config), (.decBattery, .battery), (.decReady, .ready)]) :
    CommandEnd s i (decodeEnvelope k pre n s) := by
  rcases decodeEnvelope_cases k pre n s with ⟨-, h⟩ | ⟨-, -, h⟩ | ⟨-, -, h⟩ <;> rw [h]
  · exact .discard _ (mem_decoders_of_mem_kinds hi)
  · exact .discard _ (mem_decoders_of_mem_kinds hi)
  · exact .commit _ (by rw [memRead_length, hn]) hi

theorem commandEnd_decReady (s : State) : ∃ t, execDecReady s = .next t ∧ CommandEnd s .decReady t := by
  rcases execDecReady_cases s with ⟨-, h⟩ | ⟨-, -, h⟩ | ⟨-, -, h⟩
  · exact ⟨_, h, .discard _ (by decide)⟩
  · exact ⟨_, h, .discard _ (by decide)⟩
  · exact ⟨_, h, .commit _ rfl (by decide)⟩

/-- Every command, from every state, answers a next state, and `CommandEnd` says which. -/
theorem exec_commandEnd (i : Instr) (s : State) : ∃ t, exec i s = .next t ∧ CommandEnd s i t := by
  cases i with
  | nop => exact ⟨_, rfl, .nop⟩
  | fbClr => exact ⟨_, rfl, .fbClr⟩
  | crcInit => exact ⟨_, rfl, .crc _ (by decide)⟩
  | crcByte => exact ⟨_, rfl, .crc _ (by decide)⟩
  | checksum => exact commandEnd_checksum s
  | appendCrc => exact commandEnd_appendCrc s
  | validate => exact commandEnd_validate s
  | decStatus => exact commandEnd_decStatus s
  | decConfig => exact ⟨_, rfl, commandEnd_decodeEnvelope _ s rfl (by decide)⟩
  | decBattery => exact ⟨_, rfl, commandEnd_decodeEnvelope _ s rfl (by decide)⟩
  | decReady => exact commandEnd_decReady s
  | lkReady => exact ⟨_, rfl, .lookup _ _ (by decide) (by decide)⟩
  | lkPtype => exact ⟨_, rfl, .lookup _ _ (by decide) (by decide)⟩
  | lkPcolor => exact ⟨_, rfl, .lookup _ _ (by decide) (by decide)⟩
  | lkTimeout => exact ⟨_, rfl, .lookup _ _ (minutes_mem _) (by decide)⟩
  | lkBeep => exact ⟨_, rfl, .lookup _ _ (by decide) (by decide)⟩

/-- The inversion of `exec`: whatever a command answers is one of its ends. -/
theorem commandEnd_of_exec {i : Instr} {s t : State} (h : exec i s = .next t) : CommandEnd s i t := by
  obtain ⟨u, hu, hend⟩ := exec_commandEnd i s
  cases hu.symm.trans h
  exact hend

end Sys2Proof.Machine
end

section
/-! PROOFS. O52: the invariant of reachable states, kept by each operation and so by every step. -/

namespace Sys2Proof.Machine

namespace State.Inv

variable {s : State}

/-- Legal parameters have an FB_CAP of 18 to 255 (00_scope.md R7). -/
theorem cap_bounds (h : s.Inv) : 18 ≤ s.params.fbCap ∧ s.params.fbCap ≤ 255 := by
  have hwf := h.params_legal
  simp only [Params.wf, Params.capLegal, Bool.and_eq_true, decide_eq_true_eq] at hwf
  exact hwf.1

/-- OVF is clear while FB has room (20_memory.md R52). -/
theorem ovf_of_room (h : s.Inv) (hroom : s.fblen.toNat < s.params.fbCap) : s.ovf = false := by
  by_contra hovf
  have := h.ovf_full (by simpa using hovf)
  omega

theorem finish (h : s.Inv) : (finish s).Inv := { h with }

theorem raise (h : s.Inv) (code : ResultCode) : (raise code s).Inv := { h with }

theorem storeChecksums (h : s.Inv) (n : Nat) : (storeChecksums n s).Inv := { h with }

theorem withPlen (h : s.Inv) {n : Byte} (hn : n.toNat + 2 ≤ s.params.fbCap) : { s with plen := n }.Inv :=
  { h with plen_fits := hn }

/-- An emptied buffer has no byte to account for. -/
theorem emptied (h : s.Inv) : { s with fblen := 0#8, fbptr := 0#8, ovf := false }.Inv :=
  { h with
    fblen_le_cap := Nat.zero_le _
    ovf_full := fun hovf => nomatch hovf
    fb_written := fun _ hi => absurd hi (Nat.not_lt_zero _) }

/-- Bytes written at the end of the frame, FBLEN taking them in (20_memory.md R52, R96). -/
theorem extended (h : s.Inv) (vs : List Byte) {len : Byte} (hlen : len.toNat = s.fblen.toNat + vs.length)
    (hcap : len.toNat ≤ s.params.fbCap) (hovf : s.ovf = false) :
    { s with fb := s.fb.writeList s.fblen.toNat vs, fblen := len }.Inv :=
  { h with
    fblen_le_cap := hcap
    ovf_full := fun ho => absurd ho (by simp [hovf])
    fb_canonical := Memory.writeList_wf h.fb_canonical _ vs
    fb_written := by
      intro i hi
      simp only [Memory.read?_writeList, hlen] at hi ⊢
      split
      · rw [List.getElem?_eq_getElem (by omega)]; rfl
      · exact h.fb_written i (by omega)
    fb_inside := by
      intro i hi
      simp only [Memory.read?_writeList] at hi ⊢
      split at hi
      · omega
      · exact h.fb_inside i hi }

theorem fbAppend (h : s.Inv) (v : Byte) : (fbAppend v s).Inv := by
  by_cases hroom : s.fblen.toNat < s.params.fbCap
  · have hlen := fblen_succ_toNat h.params_legal hroom
    rw [fbAppend_of_room hroom]
    exact h.extended [v] hlen (hlen ▸ hroom) (h.ovf_of_room hroom)
  · have hfull : s.fblen.toNat = s.params.fbCap := Nat.le_antisymm h.fblen_le_cap (Nat.not_lt.1 hroom)
    rw [fbAppend_of_full hroom]
    exact { h with ovf_full := fun _ => hfull }

/-- A record's payload leaves room for a checksum in every legal FB (10_state.md R35). -/
theorem recordLen_fits (h : s.Inv) (k : RecordKind) : recordLen s.params k + 2 ≤ s.params.fbCap := by
  have := h.cap_bounds.1
  cases k with
  | status => cases hs : s.params.statusLen <;> simp [recordLen, StatusLen.bytes, hs] <;> omega
  | _ => simp only [recordLen]; omega

/-- A committed record is padded with 0x00 above its payload (R37, 41_decoder.md R110). -/
theorem commitRecord (h : s.Inv) {k : RecordKind} {p : List Byte} (hp : p.length = recordLen s.params k) :
    (commitRecord k p s).Inv :=
  { h with
    plen_fits := by
      have := h.recordLen_fits k
      have := h.cap_bounds.2
      simp only [commitRecord_plen, commitRecord_params, BitVec.toNat_ofNat]
      omega
    record_padded := by
      intro i hi
      rw [commitRecord_record, recordOf_getElem, List.getD_eq_default _ _ (hp ▸ hi)]
      rfl }

theorem discardRecord (h : s.Inv) (code : ResultCode) : (discardRecord code s).Inv :=
  { h with
    plen_fits := by
      have := h.cap_bounds.1
      simp only [discardRecord_plen, discardRecord_params, BitVec.toNat_ofNat]
      omega
    record_padded := fun i _ => recordOf_nil_getElem i }

theorem lookup (h : s.Inv) (e : Enumeration) {m : Byte} (hm : m ∈ [0x00#8, 0x0F#8, 0x1E#8, 0x3C#8, 0xFF#8]) :
    (lookup e m s).Inv :=
  { h with
    lookup_agrees := lookup_outputs_agree e s.din
    lkmin_listed := hm }

/-- The reset values meet the invariant under any legal parameters (70_reset_and_hazards.md R210). -/
theorem resetBlock (h : s.Inv) : (resetBlock s).Inv where
  params_legal := h.params_legal
  fblen_le_cap := Nat.zero_le _
  ovf_full := fun hovf => nomatch hovf
  fb_canonical := rfl
  fb_written := fun _ hi => absurd hi (Nat.not_lt_zero _)
  fb_inside := fun _ hi => nomatch hi
  plen_fits := Nat.le_trans (Nat.le_add_left 2 16) h.cap_bounds.1
  record_padded := fun i _ => recordOf_nil_getElem i
  lookup_agrees := .inr ⟨rfl, rfl⟩
  lkmin_listed := by simp [State.reset]

/-- Every command keeps the invariant. -/
theorem commandEnd {i : Instr} {t : State} (h : s.Inv) (hend : CommandEnd s i t) : t.Inv := by
  cases hend with
  | nop => exact h.finish
  | fbClr => exact h.emptied.finish
  | crc c _ => exact { h with }
  | overflow _ => exact h.raise _
  | append hi lo c hovf hroom =>
    have hlen := fblen_add_two_toNat h.params_legal hroom
    exact { h.extended [hi, lo] hlen (hlen ▸ hroom) hovf with }
  | validate c r n code hn =>
    have hplen : n.toNat + 2 ≤ s.params.fbCap := by
      have hcap := h.cap_bounds.1
      have hle := h.fblen_le_cap
      rcases hn with rfl | ⟨hlen, rfl⟩
      · simp only [BitVec.toNat_ofNat]; omega
      · simp only [frameLen] at hlen
        simp only [BitVec.toNat_sub, BitVec.toNat_ofNat]; omega
    exact { h.withPlen hplen with }
  | discard code _ => exact h.discardRecord code
  | discardStatus code n => exact (h.storeChecksums n).discardRecord code
  | commitStatus p n hp => exact (h.storeChecksums n).commitRecord hp
  | commit p hp _ => exact h.commitRecord hp
  | lookup e m hm _ => exact h.lookup e hm

end State.Inv

/-- Settles O52: the invariant is kept by each event that `step_cases` lists, a command by each of its ends. -/
theorem everyStepKeepsTheInvariant : Obligations.EveryStepKeepsTheInvariant := by
  unfold Obligations.EveryStepKeepsTheInvariant
  intro s t h hstep
  have hpop : ∀ rest, { s with pending := rest }.Inv := fun rest => { h with }
  rcases step_cases hstep with ⟨-, rfl⟩ | ⟨e, rest, -, ⟨v, i, -, -, hexec⟩ | ⟨v, r, -, -, rfl⟩ | ⟨v, -, rfl⟩ | ⟨v, -, rfl⟩ |
    ⟨v, -, rfl⟩ | ⟨o, v, -, -, -, -, -, rfl⟩ | ⟨o, -, rfl⟩ | ⟨-, rfl⟩⟩
  · exact h
  · exact (hpop rest).commandEnd (commandEnd_of_exec hexec)
  · exact { h with }
  · exact { h with }
  · exact (hpop rest).fbAppend v
  · exact { h with }
  · exact hpop rest
  · exact { h with }
  · exact (hpop rest).resetBlock

end Sys2Proof.Machine
end

section
/-! PROOFS. O53: the bytes of FB at FBLEN and above are unobservable. A buffer that holds the same bytes below FBLEN shows every
command the same operands, so the command does the same. -/

namespace Sys2Proof.Machine

/-! ### A state with another buffer -/

/-- The state with the bytes of FB replaced by those of `m`. -/
def refill (m : Memory) (s : State) : State := { s with fb := m }

@[simp] theorem refill_params (m : Memory) (s : State) : (refill m s).params = s.params := rfl
@[simp] theorem refill_ovf (m : Memory) (s : State) : (refill m s).ovf = s.ovf := rfl
@[simp] theorem refill_fblen (m : Memory) (s : State) : (refill m s).fblen = s.fblen := rfl
@[simp] theorem refill_fbptr (m : Memory) (s : State) : (refill m s).fbptr = s.fbptr := rfl
@[simp] theorem refill_frameLen (m : Memory) (s : State) : frameLen (refill m s) = frameLen s := rfl
@[simp] theorem refill_statusPayloadLen (m : Memory) (s : State) : statusPayloadLen (refill m s) = statusPayloadLen s := rfl

/-- The outcome with the buffer of its next state replaced. -/
def refillNext (m : Memory) : Host.Outcome State Fault Refusal → Host.Outcome State Fault Refusal
  | .next t => .next (refill m t)
  | o => o

/-- The buffer `m` holds the frame of `s`. -/
def SameFrame (s : State) (m : Memory) : Prop := ∀ i, i < frameLen s → fbByte (refill m s) i = fbByte s i

theorem sameObservable_iff {s s' : State} : SameObservable s s' ↔ ∃ m, s' = refill m s ∧ SameFrame s m := by
  constructor
  · rintro ⟨hs', hbytes⟩
    exact ⟨s'.fb, hs', fun i hi => hbytes i hi⟩
  · rintro ⟨m, rfl, hm⟩
    exact ⟨rfl, hm⟩

theorem SameObservable.refl (s : State) : SameObservable s s := ⟨rfl, fun _ _ => rfl⟩

namespace SameFrame

variable {s : State} {m : Memory}

/-! ### The operands that commands and reads take from FB -/

theorem memRead (hm : SameFrame s m) {i n : Nat} (h : i + n ≤ frameLen s) : memRead (refill m s) i n = memRead s i n :=
  memRead_congr fun k hk => hm (i + k) (by omega)

theorem payload (hm : SameFrame s m) {n : Nat} (h : n ≤ frameLen s) : payload (refill m s) n = payload s n :=
  hm.memRead (by omega)

theorem frame (hm : SameFrame s m) : frame (refill m s) = frame s := hm.payload (Nat.le_refl _)

theorem receivedCrc (hm : SameFrame s m) {n : Nat} (h : n + 2 ≤ frameLen s) :
    receivedCrc (refill m s) n = receivedCrc s n := by
  simp only [Machine.receivedCrc, hm n (by omega), hm (n + 1) (by omega)]

theorem storeChecksums (hm : SameFrame s m) {n : Nat} (h : n + 2 ≤ frameLen s) :
    storeChecksums n (refill m s) = refill m (storeChecksums n s) := by
  unfold Machine.storeChecksums
  rw [hm.payload (by omega), hm.receivedCrc h]
  rfl

theorem envCheck (hm : SameFrame s m) (pre : List Byte) (n : Nat) : envCheck pre n (refill m s) = envCheck pre n s := by
  apply Option.ext
  intro p
  simp only [envCheck_eq_some_iff, refill_frameLen, refill_params]
  by_cases hlen : frameLen s = pre.length + n + 2
  · rw [hm.memRead (i := 0) (by omega), hm.memRead (i := frameLen s - 2) (by omega), hm.memRead (i := pre.length) (by omega)]
  · simp only [hlen, false_and, and_false]

theorem fbrdByte (hm : SameFrame s m) : fbrdByte (refill m s) = fbrdByte s := by
  unfold Machine.fbrdByte
  rw [refill_fbptr, refill_frameLen]
  split_ifs with h
  · exact hm _ h
  · rfl

/-- FBRD is the one register that shows a byte of FB, and it shows none at FBLEN or above (10_state.md R31). -/
theorem readOffset (hm : SameFrame s m) (o : Byte) : readOffset (refill m s) o = readOffset s o :=
  readOffset_congr (fun r => by
    cases r with
    | fbrd => exact hm.fbrdByte
    | _ => rfl) o

/-! ### The commands -/

theorem execChecksum (hm : SameFrame s m) : execChecksum (refill m s) = refillNext m (execChecksum s) := by
  unfold Machine.execChecksum
  rw [hm.frame, refill_ovf]
  split_ifs <;> rfl

theorem execValidate (hm : SameFrame s m) : execValidate (refill m s) = refillNext m (execValidate s) := by
  unfold Machine.execValidate
  dsimp only
  rw [refill_ovf, refill_frameLen]
  by_cases hlen : frameLen s < crcLen
  · split_ifs <;> rfl
  · have hle : frameLen s - crcLen + 2 ≤ frameLen s := (Nat.sub_add_cancel (Nat.not_lt.1 hlen)).le
    rw [hm.storeChecksums hle, hm.receivedCrc hle, hm.payload (Nat.sub_le _ _)]
    split_ifs <;> rfl

theorem execDecStatus (hm : SameFrame s m) : execDecStatus (refill m s) = refillNext m (execDecStatus s) := by
  unfold Machine.execDecStatus
  dsimp only
  rw [refill_ovf, refill_frameLen, refill_statusPayloadLen]
  by_cases hlen : frameLen s = statusPayloadLen s + crcLen
  · have hle : statusPayloadLen s + 2 ≤ frameLen s := hlen.ge
    rw [hm.storeChecksums hle, hm.receivedCrc hle, hm.payload (Nat.le_of_add_right_le hle)]
    split_ifs <;> rfl
  · split_ifs <;> rfl

theorem decodeEnvelope (hm : SameFrame s m) (k : RecordKind) (pre : List Byte) (n : Nat) :
    decodeEnvelope k pre n (refill m s) = refill m (decodeEnvelope k pre n s) := by
  unfold Machine.decodeEnvelope
  rw [hm.envCheck, refill_ovf]
  split_ifs
  · rfl
  · cases Machine.envCheck pre n s <;> rfl

theorem execDecReady (hm : SameFrame s m) : execDecReady (refill m s) = refillNext m (execDecReady s) := by
  unfold Machine.execDecReady
  rw [refill_ovf, refill_frameLen]
  by_cases hlen : frameLen s = readyFrameLen
  · rw [hm 0 (hlen ▸ Nat.one_pos)]
    split_ifs <;> rfl
  · split_ifs <;> rfl

/-- Every command but APPEND_CRC does the same with the replaced buffer, and leaves it as it is. -/
theorem exec (hm : SameFrame s m) {i : Instr} (hi : i ≠ .appendCrc) : exec i (refill m s) = refillNext m (exec i s) := by
  cases i with
  | appendCrc => exact absurd rfl hi
  | checksum => exact hm.execChecksum
  | validate => exact hm.execValidate
  | decStatus => exact hm.execDecStatus
  | decConfig => exact congrArg _ (hm.decodeEnvelope _ _ _)
  | decBattery => exact congrArg _ (hm.decodeEnvelope _ _ _)
  | decReady => exact hm.execDecReady
  | _ => rfl

/-- Bytes written at the end of the frame make the same longer frame in both buffers. -/
theorem memWrite_end (hm : SameFrame s m) (vs : List Byte) {i : Nat} (h : i < frameLen s + vs.length) :
    fbByte (memWrite (refill m s) (frameLen s) vs) i = fbByte (memWrite s (frameLen s) vs) i := by
  rw [fbByte_memWrite, fbByte_memWrite]
  split
  · rfl
  · exact hm i (by omega)

/-- APPEND_CRC appends the same checksum in both buffers. -/
theorem execAppendCrc (hm : SameFrame s m) {t : State} (h : execAppendCrc s = .next t) :
    ∃ t', execAppendCrc (refill m s) = .next t' ∧ SameObservable t t' := by
  unfold Machine.execAppendCrc at h ⊢
  rw [hm.frame, refill_ovf, refill_frameLen, refill_params]
  split_ifs at h ⊢
  · cases h
    exact ⟨_, rfl, rfl, hm⟩
  · cases h
    exact ⟨_, rfl, rfl, hm⟩
  · cases h
    refine ⟨_, rfl, rfl, fun i hi => hm.memWrite_end _ (Nat.lt_of_lt_of_le hi ?_)⟩
    exact (BitVec.toNat_add s.fblen 2#8).trans_le (Nat.mod_le _ _)

end SameFrame

/-! ### The events -/

/-- A command moves FBLEN up only by APPEND_CRC, and every other command leaves FB alone. -/
theorem CommandEnd.keeps_frame {s t : State} {i : Instr} (h : CommandEnd s i t) (hi : i ≠ .appendCrc) :
    t.fb = s.fb ∧ frameLen t ≤ frameLen s := by
  cases h with
  | append => exact absurd rfl hi
  | fbClr => exact ⟨rfl, Nat.zero_le _⟩
  | _ => exact ⟨rfl, Nat.le_refl _⟩

theorem SameObservable.exec {s s' t : State} {i : Instr} (h : SameObservable s s') (ht : exec i s = .next t) :
    ∃ t', exec i s' = .next t' ∧ SameObservable t t' := by
  obtain ⟨m, rfl, hm⟩ := sameObservable_iff.1 h
  by_cases hi : i = .appendCrc
  · subst hi
    exact hm.execAppendCrc ht
  · obtain ⟨hfb, hlen⟩ := (commandEnd_of_exec ht).keeps_frame hi
    refine ⟨refill m t, by rw [hm.exec hi, ht]; rfl, rfl, fun a ha => ?_⟩
    exact (hm a (Nat.lt_of_lt_of_le ha hlen)).trans (fbByte_congr hfb a).symm

theorem SameObservable.fbAppend {s s' : State} (h : SameObservable s s') (v : Byte) :
    SameObservable (fbAppend v s) (fbAppend v s') := by
  obtain ⟨m, rfl, hm⟩ := sameObservable_iff.1 h
  by_cases hroom : s.fblen.toNat < s.params.fbCap
  · rw [fbAppend_of_room hroom, fbAppend_of_room (s := refill m s) hroom]
    refine ⟨rfl, fun i hi => hm.memWrite_end [v] (Nat.lt_of_lt_of_le hi ?_)⟩
    exact (BitVec.toNat_add s.fblen 1#8).trans_le (Nat.mod_le _ _)
  · rw [fbAppend_of_full hroom, fbAppend_of_full (s := refill m s) hroom]
    exact ⟨rfl, hm⟩

theorem SameObservable.runCommand {s s' t : State} {v : Byte} (h : SameObservable s s') (ht : runCommand v s = .next t) :
    ∃ t', runCommand v s' = .next t' ∧ SameObservable t t' := by
  cases hv : decodeByte v with
  | ok i =>
    rw [runCommand_of_ok hv] at ht ⊢
    exact h.exec ht
  | error r =>
    obtain ⟨m, rfl, hm⟩ := sameObservable_iff.1 h
    rw [runCommand_of_error hv] at ht ⊢
    cases ht
    exact ⟨_, rfl, rfl, hm⟩

theorem SameObservable.hostWrite {s s' t : State} {o v : Byte} (h : SameObservable s s') (ht : hostWrite o v s = .next t) :
    ∃ t', hostWrite o v s' = .next t' ∧ SameObservable t t' := by
  obtain ⟨m, rfl, hm⟩ := sameObservable_iff.1 h
  unfold Machine.hostWrite at ht ⊢
  split at ht
  · exact h.runCommand ht
  · cases ht; exact ⟨_, rfl, rfl, hm⟩
  · cases ht; exact ⟨_, rfl, h.fbAppend v⟩
  · cases ht; exact ⟨_, rfl, rfl, hm⟩
  · cases ht; exact ⟨_, rfl, h⟩

theorem SameObservable.hostEvent {s s' t : State} {e : HostEvent} (h : SameObservable s s') (ht : hostEvent e s = .next t) :
    ∃ t', hostEvent e s' = .next t' ∧ SameObservable t t' := by
  obtain ⟨m, rfl, hm⟩ := sameObservable_iff.1 h
  cases e with
  | write o v => exact h.hostWrite ht
  | read o =>
    rw [hostEvent_read] at ht ⊢
    rw [hm.readOffset]
    cases ht
    exact ⟨_, rfl, rfl, hm⟩
  | reset =>
    cases ht
    exact ⟨_, rfl, SameObservable.refl _⟩

/-- The step lemma of the noninterference: one event keeps two states alike to the host. -/
theorem SameObservable.step {s s' t : State} (h : SameObservable s s') (ht : step s = .next t) :
    ∃ t', step s' = .next t' ∧ SameObservable t t' := by
  obtain ⟨m, rfl, hm⟩ := sameObservable_iff.1 h
  cases hp : s.pending with
  | nil =>
    rw [step_of_nil hp] at ht
    cases ht
    exact ⟨_, step_of_nil hp, h⟩
  | cons e rest =>
    rw [step_of_pending hp] at ht
    rw [step_of_pending (s := refill m s) hp]
    have hpop : SameObservable { s with pending := rest } { refill m s with pending := rest } := ⟨rfl, hm⟩
    exact hpop.hostEvent ht

theorem SameObservable.runSteps {k : Nat} {s s' t : State} (h : SameObservable s s') (ht : runSteps k s = .next t) :
    ∃ t', runSteps k s' = .next t' ∧ SameObservable t t' := by
  induction k generalizing s s' with
  | zero =>
    cases ht
    exact ⟨s', rfl, h⟩
  | succ k ih =>
    cases hs : Machine.step s with
    | next u =>
      obtain ⟨u', hs', hu⟩ := h.step hs
      rw [runSteps_succ_of hs] at ht
      rw [runSteps_succ_of hs']
      exact ih hu ht
    | fault r => cases r
    | refused r => simp [Machine.runSteps, hs] at ht

/-- Settles O53, by induction on the number of steps; two states that agree below FBLEN read alike at every offset. -/
theorem hiddenBufferBytesAreUnobservable : Obligations.HiddenBufferBytesAreUnobservable := by
  unfold Obligations.HiddenBufferBytesAreUnobservable
  intro k s s' t h ht
  obtain ⟨t', ht', hsame⟩ := h.runSteps ht
  obtain ⟨m, rfl, hm⟩ := sameObservable_iff.1 hsame
  exact ⟨_, ht', hsame, rfl, hm.readOffset⟩

end Sys2Proof.Machine
end

section
/-! PROOFS. What commands and steps leave unchanged: each command writes only the registers of its row (30_encoding.md R72), and
so each register changes only at its writers (O13, O47, O49). -/

namespace Sys2Proof.Machine

/-- What the command `i` leaves as it was, from `s` to `t`: every register outside the write column of its row in R72. -/
structure KeepsOffRow (i : Instr) (s t : State) : Prop where
  params : t.params = s.params
  pending : t.pending = s.pending
  returned : t.returned = s.returned
  din : t.din = s.din
  ovf : i ∉ [Instr.fbClr] → t.ovf = s.ovf
  fbptr : i ∉ [Instr.fbClr] → t.fbptr = s.fbptr
  fblen : i ∉ [Instr.fbClr, .appendCrc] → t.fblen = s.fblen
  fb : i ∉ [Instr.appendCrc] → t.fb = s.fb
  fbOutside : ∀ a, a ≠ s.fblen.toNat → a ≠ s.fblen.toNat + 1 → fbByte t a = fbByte s a
  crc : i ∉ [Instr.crcInit, .crcByte, .checksum, .appendCrc, .validate, .decStatus] → t.crc = s.crc
  rxc : i ∉ [Instr.validate, .decStatus] → t.rxc = s.rxc
  record : i ∉ [Instr.decStatus, .decConfig, .decBattery, .decReady] → t.record = s.record
  rkind : i ∉ [Instr.decStatus, .decConfig, .decBattery, .decReady] → t.rkind = s.rkind
  plen : i ∉ [Instr.validate, .decStatus, .decConfig, .decBattery, .decReady] → t.plen = s.plen
  lkidx : i ∉ [Instr.lkReady, .lkPtype, .lkPcolor, .lkTimeout, .lkBeep] → t.lkidx = s.lkidx
  lkflg : i ∉ [Instr.lkReady, .lkPtype, .lkPcolor, .lkTimeout, .lkBeep] → t.lkflg = s.lkflg
  lkmin : i ∉ [Instr.lkReady, .lkPtype, .lkPcolor, .lkTimeout, .lkBeep] → t.lkmin = s.lkmin

theorem KeepsOffRow.refl (i : Instr) (s : State) : KeepsOffRow i s s := by
  constructor <;> intros <;> rfl

/-- Every end of a command keeps what is outside the command's row. -/
theorem CommandEnd.keepsOffRow {i : Instr} {s t : State} (h : CommandEnd s i t) : KeepsOffRow i s t := by
  have hself := KeepsOffRow.refl i s
  cases h with
  | nop => exact { hself with }
  | fbClr =>
    exact { hself with
      ovf := absurd (List.mem_cons_self ..)
      fbptr := absurd (List.mem_cons_self ..)
      fblen := absurd (List.mem_cons_self ..) }
  | crc c hi => exact { hself with crc := absurd (List.mem_append_left [Instr.appendCrc, .validate, .decStatus] hi) }
  | overflow hi => exact { hself with }
  | append h l c hovf hroom =>
    exact { hself with
      fblen := absurd (by decide)
      fb := absurd (by decide)
      crc := absurd (by decide)
      fbOutside := fun a h0 h1 =>
        (fbByte_memWrite s (frameLen s) a [h, l]).trans
          (dif_neg (by simp only [frameLen, List.length_cons, List.length_nil]; omega)) }
  | validate c r n code hn =>
    exact { hself with crc := absurd (by decide), rxc := absurd (by decide), plen := absurd (by decide) }
  | discard code hi =>
    exact { hself with record := absurd hi, rkind := absurd hi, plen := absurd (List.mem_cons_of_mem _ hi) }
  | discardStatus code n | commitStatus p n hp =>
    exact { hself with
      crc := absurd (by decide)
      rxc := absurd (by decide)
      record := absurd (by decide)
      rkind := absurd (by decide)
      plen := absurd (by decide) }
  | commit p hp hi =>
    have hdec := mem_decoders_of_mem_kinds hi
    exact { hself with record := absurd hdec, rkind := absurd hdec, plen := absurd (List.mem_cons_of_mem _ hdec) }
  | lookup e m hm hi => exact { hself with lkidx := absurd hi, lkflg := absurd hi, lkmin := absurd hi }

theorem keepsOffRow_of_exec {i : Instr} {s t : State} (h : exec i s = .next t) : KeepsOffRow i s t :=
  (commandEnd_of_exec h).keepsOffRow

/-- Where only the commands `writers` can change something, the code of a command that changed it is one of theirs. -/
theorem mem_codes_of_changed {v : Byte} {i : Instr} {writers : List Instr} {same : Prop} (hv : decodeByte v = .ok i)
    (hkeeps : i ∉ writers → same) (hchanged : ¬ same) : v ∈ writers.map encode := by
  rw [eq_encode_of_decodeByte hv]
  exact List.mem_map_of_mem (not_imp_comm.1 hkeeps hchanged)

/-- A command that fails leaves FB and FBLEN as they were (10_state.md R31). -/
theorem CommandEnd.keeps_fb_of_failed {i : Instr} {s t : State} (h : CommandEnd s i t) (herr : t.err ≠ .ok) :
    t.fb = s.fb ∧ t.fblen = s.fblen := by
  cases h with
  | fbClr => exact absurd rfl herr
  | append h l c hovf hroom => exact absurd rfl herr
  | _ => exact ⟨rfl, rfl⟩

/-- FB_CLR leaves OVF clear, every other command leaves it as it was (10_state.md R26). -/
theorem CommandEnd.ovf_eq {i : Instr} {s t : State} (h : CommandEnd s i t) : t.ovf = if i = .fbClr then false else s.ovf := by
  by_cases hi : i = .fbClr
  · subst hi
    cases h with
    | fbClr => rfl
    | crc _ hi | overflow hi | discard _ hi | lookup _ _ _ hi => exact absurd hi (by decide)
    | commit _ _ hi => exact absurd (mem_decoders_of_mem_kinds hi) (by decide)
  · rw [if_neg hi]
    exact h.keepsOffRow.ovf (by simpa using hi)

/-- An FBDATA write sets OVF where FB is full and never clears it (20_memory.md R52). -/
theorem fbAppend_ovf (v : Byte) (s : State) : (fbAppend v s).ovf = (s.ovf || !decide (s.fblen.toNat < s.params.fbCap)) := by
  by_cases hroom : s.fblen.toNat < s.params.fbCap
  · simp [fbAppend_of_room hroom, hroom]
  · simp [fbAppend_of_full hroom, hroom]

/-- An FBDATA write changes no byte of FB but the one at FBLEN. -/
theorem fbByte_fbAppend_of_ne {a : Nat} (v : Byte) {s : State} (h : a ≠ s.fblen.toNat) :
    fbByte (fbAppend v s) a = fbByte s a := by
  by_cases hroom : s.fblen.toNat < s.params.fbCap
  · simp only [fbAppend_of_room hroom, fbByte, Memory.read?_write_of_ne _ _ h]
  · rw [fbAppend_of_full hroom]; rfl

theorem decodeByte_fbClr : decodeByte 0x01#8 = .ok .fbClr := by decide

theorem eq_fbClr_iff_of_decodeByte {v : Byte} {i : Instr} (hv : decodeByte v = .ok i) : i = .fbClr ↔ v = 0x01#8 := by
  constructor
  · rintro rfl
    exact eq_encode_of_decodeByte hv
  · rintro rfl
    exact Except.ok.inj (hv.symm.trans decodeByte_fbClr)

theorem readOffset_stat (s : State) : readOffset s 0x02#8 = if s.ovf then 0x01#8 else 0x00#8 := by
  refine (readOffset_offsetOf s .stat).trans ?_
  rw [readReg]
  cases s.ovf <;> rfl

/-- Settles O47, event by event: a command by `CommandEnd.ovf_eq`, an FBDATA write by `fbAppend_ovf`, reset by its listed value. -/
theorem ovfIsStickyUntilFbClrOrReset : Obligations.OvfIsStickyUntilFbClrOrReset := by
  unfold Obligations.OvfIsStickyUntilFbClrOrReset
  intro s t hstep
  refine ⟨readOffset_stat t, ?_⟩
  rcases step_cases hstep with ⟨hp, rfl⟩ | ⟨e, rest, hp, ⟨v, i, rfl, hv, hexec⟩ | ⟨v, r, rfl, hv, rfl⟩ | ⟨v, rfl, rfl⟩ |
    ⟨v, rfl, rfl⟩ | ⟨v, rfl, rfl⟩ | ⟨o, v, rfl, h0, h3, h4, h6, rfl⟩ | ⟨o, rfl, rfl⟩ | ⟨rfl, rfl⟩⟩ <;> rw [hp]
  · simp +contextual
  · simp +contextual [(commandEnd_of_exec hexec).ovf_eq, eq_fbClr_iff_of_decodeByte hv]
  · have hne : v ≠ 0x01#8 := by rintro rfl; cases hv.symm.trans decodeByte_fbClr
    simp +contextual [hne]
  · simp +contextual
  · simp +contextual [fbAppend_ovf]
  · simp +contextual
  · simp +contextual [h0, h4]
  · simp +contextual
  · simp [State.reset]

/-- Settles O49, event by event: a command keeps what is outside its row, and its code is in the list of each register it writes;
an FBDATA write touches FB, FBLEN and OVF alone. -/
theorem registersChangeOnlyByTheirWriters : Obligations.RegistersChangeOnlyByTheirWriters := by
  unfold Obligations.RegistersChangeOnlyByTheirWriters
  intro s t hstep
  rcases step_cases hstep with ⟨hp, rfl⟩ | ⟨e, rest, hp, ⟨v, i, rfl, hv, hexec⟩ | ⟨v, r, rfl, hv, rfl⟩ | ⟨v, rfl, rfl⟩ |
    ⟨v, rfl, rfl⟩ | ⟨v, rfl, rfl⟩ | ⟨o, v, rfl, -, -, -, -, rfl⟩ | ⟨o, rfl, rfl⟩ | ⟨rfl, rfl⟩⟩ <;> rw [hp]
  · simp
  · have hk := keepsOffRow_of_exec hexec
    refine ⟨hk.params, fun _ => ⟨fun _ => ⟨v, rfl⟩, ?ovf, fun h => absurd hk.din h, ?fblen, ?fbptr, ?crc, ?rxc, ?rec, ?plen,
      ?lookup, ?fb⟩⟩
    case ovf => exact fun h => .inr (List.mem_singleton.1 (mem_codes_of_changed hv hk.ovf h) ▸ rfl)
    case fbptr => exact fun h => .inr (List.mem_singleton.1 (mem_codes_of_changed hv hk.fbptr h) ▸ rfl)
    case fblen => exact fun h => .inr ⟨v, rfl, mem_codes_of_changed hv hk.fblen h⟩
    case crc => exact fun h => ⟨v, rfl, mem_codes_of_changed hv hk.crc h⟩
    case rxc => exact fun h => ⟨v, rfl, mem_codes_of_changed hv hk.rxc h⟩
    case plen => exact fun h => ⟨v, rfl, mem_codes_of_changed hv hk.plen h⟩
    case rec =>
      exact fun h => ⟨v, rfl, h.elim (mem_codes_of_changed hv hk.record) (mem_codes_of_changed hv hk.rkind)⟩
    case lookup =>
      exact fun h => ⟨v, rfl, h.elim (mem_codes_of_changed hv hk.lkidx)
        (·.elim (mem_codes_of_changed hv hk.lkflg) (mem_codes_of_changed hv hk.lkmin))⟩
    case fb =>
      intro a h
      have hcode := mem_codes_of_changed hv (fun hi => fbByte_congr (hk.fb hi) a) h
      refine .inr ⟨?_, List.mem_singleton.1 hcode ▸ rfl⟩
      by_contra hne
      exact h (hk.fbOutside a (fun h0 => hne (.inl h0)) (fun h1 => hne (.inr h1)))
  · simp [fbByte]
  · simp [fbByte]
  · have hbyte : ∀ a, fbByte (fbAppend v { s with pending := rest }) a ≠ fbByte s a → a = s.fblen.toNat :=
      fun a h => by_contra fun hne => h (fbByte_fbAppend_of_ne v hne)
    rw [fbAppend_frame] at hbyte ⊢
    simpa using hbyte
  · simp [fbByte]
  · simp [fbByte]
  · simp [fbByte]
  · simp

end Sys2Proof.Machine
end

section
/-! PROOFS. The bus: CMD, the placed command word, the offsets that ignore writes, FBRD and the checksum registers (O3, O4, O10,
O13, O14). -/

namespace Sys2Proof.Machine

/-- Settles O3, by what a CMD write and a read do. -/
theorem cmdWriteRunsTheDecodedCommand : Obligations.CmdWriteRunsTheDecodedCommand := by
  unfold Obligations.CmdWriteRunsTheDecodedCommand
  intro s rest v
  refine ⟨fun hp => ⟨fun i hv => ?_, fun r hv => ?_⟩, fun hp => ?_⟩
  · rw [step_of_pending hp, hostEvent_write, hostWrite_cmd, runCommand_of_ok hv]
  · rw [step_of_pending hp, hostEvent_write, hostWrite_cmd, runCommand_of_error hv]
  · rw [step_of_read hp, readOffset_of_regAt regAt_cmd]
    rfl

/-- A word of the table is one byte, its low one (30_encoding.md R74). -/
theorem tableBytes_eight (w : Nat) : tableBytes 8 w = [commandByte 8 w] := by
  simp [tableBytes, commandByte]

theorem decodeByte_of_decodeTableWord {w : Nat} {i : Instr} (h : decodeTableWord 8 w = some i) :
    decodeByte (commandByte 8 w) = .ok i := by
  rw [decodeTableWord, tableBytes_eight] at h
  cases hv : decodeByte (commandByte 8 w) with
  | ok j => simpa [decodeBytes, hv] using h
  | error r => simp [decodeBytes, hv] at h

/-- Settles O4: the placed word is a CMD write at the front of the pending events. -/
theorem fetchedWordIsExecutedNext : Obligations.FetchedWordIsExecutedNext := by
  unfold Obligations.FetchedWordIsExecutedNext
  intro s w i hw
  have hp : (s.withFetchWord 8 w).pending = .write 0x00#8 (commandByte 8 w) :: s.pending := by
    rw [State.withFetchWord, putCommandFirst_pending, offsetOf_cmd]
  rw [step_of_pending hp, hostEvent_write, hostWrite_cmd, runCommand_of_ok (decodeByte_of_decodeTableWord hw)]
  rfl

theorem mem_regMap_of_regAt {o : Byte} {r : Reg} (h : regAt o = some r) : (o, r) ∈ regMap := by
  obtain ⟨row, hfind, rfl⟩ := Option.map_eq_some_iff.1 h
  obtain rfl : row.1 = o := by simpa using List.find?_some hfind
  exact List.mem_of_find?_eq_some hfind

/-- No register stands in the ranges that R45 lists as unmapped. -/
theorem regAt_of_unmapped : ∀ o : Byte,
    (o = 0x0F#8 ∨ (0x2C ≤ o.toNat ∧ o.toNat ≤ 0x2F) ∨ (0x3D ≤ o.toNat ∧ o.toNat ≤ 0x3F) ∨
      (0x44 ≤ o.toNat ∧ o.toNat ≤ 0x4F) ∨ 0x53 ≤ o.toNat) → regAt o = none := by
  have hrows : ∀ row ∈ regMap, ¬ (row.1 = 0x0F#8 ∨ (0x2C ≤ row.1.toNat ∧ row.1.toNat ≤ 0x2F) ∨
      (0x3D ≤ row.1.toNat ∧ row.1.toNat ≤ 0x3F) ∨ (0x44 ≤ row.1.toNat ∧ row.1.toNat ≤ 0x4F) ∨ 0x53 ≤ row.1.toNat) := by
    decide
  intro o ho
  cases hr : regAt o with
  | none => rfl
  | some r => exact absurd ho (hrows (o, r) (mem_regMap_of_regAt hr))

/-- A step that takes a write to an offset other than those of CMD, DIN, FBDATA and FBPTR does nothing else. -/
theorem step_of_ignored_write {s : State} {o v : Byte} {rest : List HostEvent} (hp : s.pending = .write o v :: rest)
    (ho : o ∉ [0x00#8, 0x03#8, 0x04#8, 0x06#8]) : step s = .next { s with pending := rest } := by
  simp only [List.mem_cons, List.not_mem_nil, or_false, not_or] at ho
  obtain ⟨h0, h3, h4, h6⟩ := ho
  rw [step_of_pending hp, hostEvent_write, hostWrite_ignored v _ h0 h3 h4 h6]

/-- Settles O10: an unmapped offset reads 0x00, and no offset of R45's two lists takes a write. -/
theorem unmappedOffsetsReadZeroAndIgnoreWrites : Obligations.UnmappedOffsetsReadZeroAndIgnoreWrites := by
  unfold Obligations.UnmappedOffsetsReadZeroAndIgnoreWrites
  intro s rest o v
  refine ⟨fun ho => ⟨fun hp => ?_, fun hp => ?_⟩, fun ho hp => ?_⟩
  · rw [step_of_read hp, readOffset_of_unmapped (regAt_of_unmapped o ho)]
  · refine step_of_ignored_write hp fun hmem => ?_
    revert ho
    fin_cases hmem <;> decide
  · refine step_of_ignored_write hp fun hmem => ?_
    revert ho
    fin_cases hmem <;> decide

/-- Settles O13, by what FBRD reads and by `CommandEnd.keeps_fb_of_failed`. -/
theorem fbrdReadsBackTheFrame : Obligations.FbrdReadsBackTheFrame := by
  unfold Obligations.FbrdReadsBackTheFrame
  refine ⟨fun s rest hp => ?_, fun i s t hexec herr => (commandEnd_of_exec hexec).keeps_fb_of_failed herr⟩
  have hread : readOffset s 0x07#8 = fbrdByte s := readOffset_offsetOf s .fbrd
  rw [step_of_read hp, hread]
  exact ⟨fun hin => by rw [fbrdByte, frameLen, if_pos hin], fun hout => by rw [fbrdByte, frameLen, if_neg hout]⟩

/-- A step that takes a read of a register, by name. -/
theorem step_of_rd {s : State} (r : Reg) {rest : List HostEvent} (hp : s.pending = rd r ++ rest) :
    step s = .next { s with pending := rest, returned := s.returned ++ [readReg s r] } := by
  have hread : s.pending = .read (offsetOf r) :: rest := hp
  rw [step_of_read hread, readOffset_offsetOf]

/-- Reads of two registers return their values in order. -/
theorem runSteps_rd_rd {s : State} (a b : Reg) {rest : List HostEvent} (hp : s.pending = rd a ++ rd b ++ rest) :
    runSteps 2 s = .next { s with pending := rest, returned := s.returned ++ [readReg s a, readReg s b] } := by
  have hfirst := step_of_rd a (rest := rd b ++ rest) (by rw [hp, List.append_assoc])
  rw [runSteps_succ_of hfirst, runSteps_succ_of (step_of_rd b rfl), readReg_withHost s, List.append_assoc]
  rfl

/-- A 16-bit value is its high byte and its low byte (20_memory.md R55). -/
theorem toNat_eq_hiByte_loByte (c : Word16) : c.toNat = (hiByte c).toNat * 256 + (loByte c).toNat := by
  rw [hiByte_toNat, loByte_toNat]
  omega

/-- Settles O14: each checksum register is read as its high byte and then its low byte. -/
theorem checksumRegistersReadHighByteFirst : Obligations.ChecksumRegistersReadHighByteFirst := by
  unfold Obligations.ChecksumRegistersReadHighByteFirst
  intro s rest
  exact ⟨fun hp => ⟨_, _, runSteps_rd_rd .crch .crcl hp, toNat_eq_hiByte_loByte s.crc⟩,
    fun hp => ⟨_, _, runSteps_rd_rd .rxch .rxcl hp, toNat_eq_hiByte_loByte s.rxc⟩⟩

end Sys2Proof.Machine
end

section
/-! PROOFS. The stored registers and the views at their offsets (O15, O16, O17, O18, O19): each is a row of the register map. -/

namespace Sys2Proof.Machine

/-- Settles O15, row by row of the control registers, the record file and the lookup outputs. -/
theorem storedRegistersReadAtTheirOffsets : Obligations.StoredRegistersReadAtTheirOffsets := by
  unfold Obligations.StoredRegistersReadAtTheirOffsets
  intro s hwf
  have hcap : s.params.fbCap < 256 := by
    simp only [Params.wf, Params.capLegal, Bool.and_eq_true, decide_eq_true_eq] at hwf
    omega
  have hrecord : ∀ i : Fin 16, regAt (0x10#8 + BitVec.ofNat 8 i.val) = some (.record i) := by decide
  refine ⟨(readOffset_offsetOf s .err).trans ?err, (readOffset_offsetOf s .rkind).trans ?rkind, readOffset_stat s,
    readOffset_offsetOf s .din, readOffset_offsetOf s .fbdata, readOffset_offsetOf s .fblen, readOffset_offsetOf s .fbptr,
    readOffset_offsetOf s .plen, (congrArg _ (readOffset_offsetOf s .cap)).trans ?cap, readOffset_offsetOf s .lkidx,
    readOffset_offsetOf s .lkflg, readOffset_offsetOf s .lkmin, fun i => readOffset_of_regAt (hrecord i) s⟩
  case err => rw [readReg]; cases s.err <;> rfl
  case rkind => rw [readReg]; cases s.rkind <;> rfl
  case cap => rw [readReg, BitVec.toNat_ofNat, Nat.mod_eq_of_lt hcap]

/-- Settles O16, row by row of the status and config views. -/
theorem statusAndConfigViewsAreTheListedBytes : Obligations.StatusAndConfigViewsAreTheListedBytes := by
  unfold Obligations.StatusAndConfigViewsAreTheListedBytes
  intro s
  exact ⟨readOffset_offsetOf s .sReady, readOffset_offsetOf s .sDlen, readOffset_offsetOf s .sColor, readOffset_offsetOf s .sRadius,
    readOffset_offsetOf s .sPtype, readOffset_offsetOf s .sLlen, readOffset_offsetOf s .sLwmax, readOffset_offsetOf s .sLw,
    readOffset_offsetOf s .sRdyidx, readOffset_offsetOf s .sColidx, readOffset_offsetOf s .sPtidx, readOffset_offsetOf s .cDpi,
    readOffset_offsetOf s .cHwmaj, readOffset_offsetOf s .cHwmin, readOffset_offsetOf s .cHwpat, readOffset_offsetOf s .cFwmaj,
    readOffset_offsetOf s .cFwmin, readOffset_offsetOf s .cFwpat, readOffset_offsetOf s .cTimeout, readOffset_offsetOf s .cBeep,
    readOffset_offsetOf s .cTomin, readOffset_offsetOf s .cToidx, readOffset_offsetOf s .cBpidx⟩

/-! ### The flag bytes, with the values of the members that 42_enum_lookup.md R141–R145 list -/

theorem known_readinessStatus_iff : ∀ v : Byte, known .readinessStatus v = true ↔ v ∈ [0x00#8, 0x01#8, 0x04#8, 0x20#8] := by
  decide

theorem known_paperColor_iff : ∀ v : Byte, known .paperColor v = true ↔ v = 0x00#8 ∨ (2 ≤ v.toNat ∧ v.toNat ≤ 6) := by
  decide

theorem known_paperType_iff : ∀ v : Byte, known .paperType v = true ↔ v.toNat ≤ 2 := by decide

theorem known_timeoutSetting_iff : ∀ v : Byte, known .timeoutSetting v = true ↔ v.toNat ≤ 3 := by decide

theorem known_beepSetting_iff : ∀ v : Byte, known .beepSetting v = true ↔ v.toNat ≤ 1 := by decide

/-- Settles O17, bit by bit of the flag byte. -/
theorem statusFlagsAreTheListedBits : Obligations.StatusFlagsAreTheListedBits := by
  unfold Obligations.StatusFlagsAreTheListedBits
  intro s
  have hread : readOffset s 0x28#8 = statusFlags s.record := readOffset_offsetOf s .sFlags
  obtain ⟨h0, h1, h2, h3, hlt, -⟩ := flagByte_bits (noTag s.record) (known .readinessStatus s.record[0])
    (known .paperColor s.record[4]) (known .paperType s.record[7])
  rw [hread, statusFlags, h0, h1, h2, h3]
  exact ⟨by simp [noTag], known_readinessStatus_iff _, known_paperColor_iff _, known_paperType_iff _, hlt⟩

/-- Settles O18, bit by bit of the flag byte. -/
theorem configFlagsAreTheListedBits : Obligations.ConfigFlagsAreTheListedBits := by
  unfold Obligations.ConfigFlagsAreTheListedBits
  intro s
  have hread : readOffset s 0x39#8 = configFlags s.record := readOffset_offsetOf s .cFlags
  obtain ⟨h0, h1, h2, -, -, hlt⟩ := flagByte_bits (beepOn s.record) (known .timeoutSetting s.record[7])
    (known .beepSetting s.record[8]) false
  rw [hread, configFlags, h0, h1, h2]
  exact ⟨by simp [beepOn], known_timeoutSetting_iff _, known_beepSetting_iff _, hlt rfl⟩

/-- B_PCT never wraps: two BCD digits make at most 165 (10_state.md R42). -/
theorem batteryPercent_toNat (r : Vector Byte 16) : (batteryPercent r).toNat = 10 * bcdTens r + bcdOnes r := by
  have htens : bcdTens r < 16 := Nat.div_lt_of_lt_mul r[0].isLt
  have hones : bcdOnes r < 16 := Nat.mod_lt _ (by decide)
  rw [batteryPercent, BitVec.toNat_ofNat]
  omega

/-- Settles O19: the rows of the battery view, the percentage as a number, the flag byte bit by bit. -/
theorem batteryViewDecodesBcd : Obligations.BatteryViewDecodesBcd := by
  unfold Obligations.BatteryViewDecodesBcd
  intro s
  have hpct : readOffset s 0x42#8 = batteryPercent s.record := readOffset_offsetOf s .bPct
  have hflags : readOffset s 0x43#8 = batteryFlags s.record := readOffset_offsetOf s .bFlags
  obtain ⟨h0, h1, h2, -, -, hlt⟩ := flagByte_bits (charging s.record) (charging s.record) (bcdInvalid s.record) false
  rw [hpct, hflags, batteryFlags, h0, h1, h2]
  refine ⟨readOffset_offsetOf s .bBcd, readOffset_offsetOf s .bChg,
    batteryPercent_toNat s.record, by simp [charging], by simp [charging], ?_, hlt rfl⟩
  simp [bcdInvalid, bcdTens, bcdOnes]

end Sys2Proof.Machine
end

section
/-! PROOFS. The host's accesses to FB: one FBDATA write, and `load`, which empties the buffer and appends bytes (O9, O11, O12). -/

namespace Sys2Proof.Machine

theorem decodeByte_encode (i : Instr) : decodeByte (encode i) = .ok i := by
  cases i <;> decide

/-- A step that takes a CMD write of a command's code runs the command (10_state.md R24). -/
theorem step_of_cmd {s : State} {i : Instr} {rest : List HostEvent} (hp : s.pending = cmd i ++ rest) :
    step s = exec i { s with pending := rest } := by
  obtain ⟨hrun, -⟩ := cmdWriteRunsTheDecodedCommand s rest (encode i)
  exact (hrun hp).1 i (decodeByte_encode i)

/-- A step that takes an FBDATA write appends its byte (20_memory.md R52). -/
theorem step_of_fbdata {s : State} {v : Byte} {rest : List HostEvent} (hp : s.pending = .write 0x04#8 v :: rest) :
    step s = .next (fbAppend v { s with pending := rest }) := by
  rw [step_of_pending hp, hostEvent_write, hostWrite_fbdata]

/-- Settles O9, access by access; a CMD write by `cmdWriteRunsTheDecodedCommand`, since every command answers a next state. -/
theorem readsAndPlainWritesHaveNoOtherEffect : Obligations.ReadsAndPlainWritesHaveNoOtherEffect := by
  unfold Obligations.ReadsAndPlainWritesHaveNoOtherEffect
  intro s rest o v
  refine ⟨step_of_read, fun hp => ?cmd, step_of_fbdata, fun hp => ?din, fun hp => ?fbptr, fun hp h0 h3 h4 h6 => ?ignored⟩
  case cmd =>
    obtain ⟨hok, herror⟩ := (cmdWriteRunsTheDecodedCommand s rest v).1 hp
    cases hv : decodeByte v with
    | ok i =>
      obtain ⟨t, ht, -⟩ := exec_commandEnd i { s with pending := rest }
      exact ⟨t, (hok i hv).trans ht, .inl ⟨i, rfl, ht⟩⟩
    | error r => exact ⟨_, herror r hv, .inr ⟨nofun, rfl⟩⟩
  case din => rw [step_of_pending hp, hostEvent_write, hostWrite_din]
  case fbptr => rw [step_of_pending hp, hostEvent_write, hostWrite_fbptr]
  case ignored => exact step_of_ignored_write hp (by simp [h0, h3, h4, h6])

/-- Settles O11, by whether FB has room. -/
theorem fbdataWriteAppendsOrDrops : Obligations.FbdataWriteAppendsOrDrops := by
  unfold Obligations.FbdataWriteAppendsOrDrops
  intro s rest v hp
  rw [step_of_fbdata hp]
  refine ⟨fun hroom => ⟨_, rfl, ?_, ?_, fun a ha => fbByte_fbAppend_of_ne (s := { s with pending := rest }) v ha⟩,
    fun hfull => ?_⟩
  · rw [fbAppend_of_room (s := { s with pending := rest }) hroom]
  · rw [fbAppend_of_room (s := { s with pending := rest }) hroom]
    simp [fbByte]
  · rw [fbAppend_of_full (s := { s with pending := rest }) hfull]

/-- The state after `load bytes`, with `rest` still pending: FB_CLR's, to which the bytes are appended (30_encoding.md R76). -/
def afterLoad (bytes : List Byte) (rest : List HostEvent) (s : State) : State :=
  fbAppendAll bytes (finish { s with pending := rest, fblen := 0#8, fbptr := 0#8, ovf := false })

theorem step_of_load {s : State} {bytes : List Byte} {rest : List HostEvent} (hp : s.pending = load bytes ++ rest) :
    step s = .next (finish { s with pending := append bytes ++ rest, fblen := 0#8, fbptr := 0#8, ovf := false }) :=
  step_of_cmd (i := .fbClr) (by rw [hp, load, List.append_assoc])

theorem runSteps_load {s : State} {bytes : List Byte} {rest : List HostEvent} (hp : s.pending = load bytes ++ rest) :
    runSteps (bytes.length + 1) s = .next (afterLoad bytes rest s) := by
  rw [runSteps_succ_of (step_of_load hp), runSteps_append bytes _ rest rfl]
  rfl

/-- Settles O12, by what FBDATA writes of a list leave from an empty buffer. -/
theorem loadKeepsTheFirstBytesAndFlagsTheRest : Obligations.LoadKeepsTheFirstBytesAndFlagsTheRest := by
  unfold Obligations.LoadKeepsTheFirstBytesAndFlagsTheRest
  intro s rest bytes hwf hp
  obtain ⟨hframe, hovf, hkeeps⟩ := fbAppendAll_spec bytes
    (finish { s with pending := rest, fblen := 0#8, fbptr := 0#8, ovf := false }) hwf (Nat.zero_le _)
  exact ⟨_, runSteps_load hp, hframe, by simpa [afterLoad] using hovf, hkeeps⟩

end Sys2Proof.Machine
end

section
/-! PROOFS. A response that a host loads and decodes: the decoder's commands said of the frame, and runs of `load` with one command
after it (O39, O40). -/

namespace Sys2Proof.Machine

/-! ### The decoder's commands on a frame -/

/-- Every response fits in FB: FB_CAP is at least 18 (00_scope.md R7). -/
theorem eighteen_le_fbCap {p : Params} (h : p.wf = true) : 18 ≤ p.fbCap := by
  simp only [Params.wf, Params.capLegal, Bool.and_eq_true, decide_eq_true_eq] at h
  omega

theorem statusLen_bytes_le (l : StatusLen) : l.bytes ≤ 16 := by
  cases l <;> decide

/-- The first payload-length bytes of REC are the committed payload (10_state.md R37). -/
theorem recordOf_take_length {p : List Byte} (hp : p.length ≤ 16) : (recordOf p).toList.take p.length = p := by
  apply List.ext_getElem
  · simpa using hp
  · intro k _ hk
    have hrec := recordOf_getElem p ⟨k, by omega⟩
    simpa [hk] using hrec

/-- DEC_CONFIG and DEC_BATTERY on a frame that is a whole envelope (R113, R114), with or without TERM_CHECK. -/
theorem decodeEnvelope_of_frame {s : State} {pre p : List Byte} (k : RecordKind) (ho : s.ovf = false)
    (hf : frame s = pre ++ p ++ [0x0D, 0x0A]) : decodeEnvelope k pre p.length s = commitRecord k p s := by
  have hlen : frameLen s = pre.length + p.length + 2 := by
    rw [← frame_length, hf, List.length_append, List.length_append]; rfl
  have henv : envCheck pre p.length s = some p := by
    rw [envCheck_eq_some_iff, memRead_eq_drop_take s (by omega), memRead_eq_drop_take s (by omega),
      memRead_eq_drop_take s (by omega), hf]
    simp [hlen]
  simp [decodeEnvelope, ho, henv]

theorem execDecReady_of_frame {s : State} {b : Byte} (ho : s.ovf = false) (hf : frame s = [b]) :
    execDecReady s = .next (commitRecord .ready [b] s) := by
  have hlen : frameLen s = 1 := by rw [← frame_length, hf]; rfl
  have hb : [fbByte s 0] = [b] := by rw [← memRead_one, ← hf, frame, hlen]
  simp [execDecReady, ho, hlen, hb, readyFrameLen]

/-- Bytes that overran FB are no response to any decoder command (60_exceptions.md R183). -/
theorem exec_decoder_of_ovf {s : State} {i : Instr} (hi : i ∈ [Instr.decStatus, .decConfig, .decBattery, .decReady])
    (ho : s.ovf = true) : exec i s = .next (discardRecord .fbOverflow s) := by
  fin_cases hi
  · exact if_pos ho
  · exact congrArg _ (if_pos ho)
  · exact congrArg _ (if_pos ho)
  · exact if_pos ho

/-- An envelope has one length. -/
theorem envCheck_of_length_ne {s : State} {pre : List Byte} {n : Nat} (h : frameLen s ≠ pre.length + n + 2) :
    envCheck pre n s = none := by
  rw [Option.eq_none_iff_forall_ne_some]
  intro p hp
  obtain ⟨-, hlen, -, -⟩ := envCheck_eq_some_iff.1 hp
  exact h hlen

theorem decodeEnvelope_of_length_ne {s : State} {pre : List Byte} {n : Nat} (k : RecordKind) (ho : s.ovf = false)
    (h : frameLen s ≠ pre.length + n + 2) : decodeEnvelope k pre n s = discardRecord .malformedResponse s := by
  simp [decodeEnvelope, ho, envCheck_of_length_ne h]

/-- A frame that has no response's length is malformed to every decoder command (R112, R113, R114, R115). -/
theorem exec_decoder_of_length {s : State} {i : Instr} (hi : i ∈ [Instr.decStatus, .decConfig, .decBattery, .decReady])
    (ho : s.ovf = false) (hlen : frameLen s ∉ [1, 12, 16, 18]) : exec i s = .next (discardRecord .malformedResponse s) := by
  simp only [List.mem_cons, List.not_mem_nil, or_false, not_or] at hlen
  obtain ⟨h1, h12, h16, h18⟩ := hlen
  fin_cases hi
  · have hstatus : frameLen s ≠ statusPayloadLen s + crcLen := by
      unfold statusPayloadLen crcLen
      cases s.params.statusLen
      · exact h18
      · exact h16
    simp [exec, execDecStatus, ho, hstatus]
  · exact congrArg _ (decodeEnvelope_of_length_ne _ ho h18)
  · exact congrArg _ (decodeEnvelope_of_length_ne _ ho h12)
  · simp [exec, execDecReady, ho, readyFrameLen, h1]

/-! ### `load` and one command -/

/-- A step after which ERR is OK if it ran a command begins a clean run. -/
theorem cleanRun_succ_of {k : Nat} {s t : State} {e : HostEvent} {rest : List HostEvent} (hp : s.pending = e :: rest)
    (hstep : step s = .next t) (herr : e.isCommand = true → t.err = .ok) (hk : cleanRun k t = true) :
    cleanRun (k + 1) s = true := by
  simpa [cleanRun, hstep, hp, hk, imp_iff_not_or] using herr

/-- FBDATA writes run no command. -/
theorem cleanRun_append {bytes : List Byte} {s : State} {rest : List HostEvent} (hp : s.pending = append bytes ++ rest) :
    cleanRun bytes.length s = true := by
  induction bytes generalizing s with
  | nil => rfl
  | cons b bytes ih =>
    have hp' : s.pending = .write 0x04#8 b :: (append bytes ++ rest) := hp
    exact cleanRun_succ_of hp' (step_of_fbdata hp') (by simp [HostEvent.isCommand]) (ih (by rw [fbAppend_frame]))

theorem cleanRun_load {s : State} {bytes : List Byte} {rest : List HostEvent} (hp : s.pending = load bytes ++ rest) :
    cleanRun (bytes.length + 1) s = true :=
  cleanRun_succ_of hp (step_of_load hp) (fun _ => rfl) (cleanRun_append rfl)

/-- A command after `load` runs in a state `t` that holds the loaded frame; the run is clean if the command does not fail. -/
theorem load_then_cmd {s : State} {bytes : List Byte} {i : Instr} {rest : List HostEvent} (hwf : s.params.wf = true)
    (hp : s.pending = load bytes ++ cmd i ++ rest) :
    ∃ t, (t.params = s.params ∧ t.pending = rest ∧ frame t = bytes.take s.params.fbCap ∧
        (t.ovf = true ↔ s.params.fbCap < bytes.length)) ∧
      ∀ u, exec i t = .next u → runSteps (bytes.length + 2) s = .next u ∧
        (u.err = .ok → cleanRun (bytes.length + 2) s = true) := by
  rw [List.append_assoc] at hp
  obtain ⟨t, hrun, hframe, hovf, ht⟩ := loadKeepsTheFirstBytesAndFlagsTheRest s (cmd i ++ rest) bytes hwf hp
  have hpar : t.params = s.params := by rw [ht]
  have hpt : t.pending = cmd i ++ rest := by rw [ht]
  refine ⟨{ t with pending := rest }, ⟨hpar, rfl, hframe, hovf⟩, fun u hu => ?_⟩
  have hstep : step t = .next u := (step_of_cmd hpt).trans hu
  refine ⟨?_, fun herr => ?_⟩
  · rw [runSteps_add_of 1 hrun, runSteps_succ_of hstep, runSteps_zero]
  · rw [cleanRun_add_of 1 hrun, cleanRun_load hp, cleanRun_succ_of hpt hstep (fun _ => herr) rfl]
    rfl

/-- A loaded response that a command commits as the record `p` of kind `k`: the run, of `n` steps, is clean and leaves that record. -/
theorem load_then_commit {s : State} {bytes p : List Byte} {i : Instr} {k : RecordKind} {rest : List HostEvent} {n : Nat}
    (hwf : s.params.wf = true) (hp : s.pending = load bytes ++ cmd i ++ rest) (hn : n = bytes.length + 2)
    (hfit : bytes.length ≤ 18) (hlen : p.length ≤ 16)
    (hcommit : ∀ t, t.params = s.params → t.ovf = false → frame t = bytes →
      ∃ u, exec i t = .next (commitRecord k p u) ∧ u.pending = t.pending) :
    cleanRun n s = true ∧ ∃ t, runSteps n s = .next t ∧ t.rkind = k ∧
      t.record.toList.take t.plen.toNat = p ∧ t.pending = rest := by
  subst hn
  have hcap : bytes.length ≤ s.params.fbCap := hfit.trans (eighteen_le_fbCap hwf)
  obtain ⟨t, ⟨hpar, hpend, hframe, hovf⟩, hrun⟩ := load_then_cmd hwf hp
  rw [List.take_of_length_le hcap] at hframe
  have hnovf : t.ovf = false := Bool.eq_false_iff.2 fun h => absurd (hovf.1 h) (Nat.not_lt.2 hcap)
  obtain ⟨u, hu, hupend⟩ := hcommit t hpar hnovf hframe
  obtain ⟨hsteps, hclean⟩ := hrun _ hu
  refine ⟨hclean rfl, _, hsteps, rfl, ?_, hupend.trans hpend⟩
  have hplen : (BitVec.ofNat 8 p.length).toNat = p.length := by
    rw [BitVec.toNat_ofNat]; omega
  rw [commitRecord_record, commitRecord_plen, hplen, recordOf_take_length hlen]

/-- Settles O39, command by command: each commits the payload of the frame that was loaded for it. -/
theorem loadedResponsesDecodeToTheirPayload : Obligations.LoadedResponsesDecodeToTheirPayload := by
  unfold Obligations.LoadedResponsesDecodeToTheirPayload
  intro s rest p hwf
  refine ⟨fun hlen hp => ?status, fun hlen hp => ?config, fun hlen hp => ?battery, fun hlen hp => ?ready⟩
  case status =>
    have hle : p.length ≤ 16 := hlen ▸ statusLen_bytes_le _
    refine load_then_commit hwf hp (by simp) (by simpa using hle) hle fun t hpar hovf hframe => ?_
    refine ⟨storeChecksums p.length t, ?_, rfl⟩
    rw [exec, execDecStatus_of_frame hovf (hpar ▸ hlen) hframe, joinBytes_hi_lo, if_pos rfl]
  case config =>
    refine load_then_commit hwf hp (by simp [hlen]) (by simp [hlen]) (by omega) fun t _ hovf hframe => ⟨t, ?_, rfl⟩
    exact congrArg _ (hlen ▸ decodeEnvelope_of_frame .config hovf hframe)
  case battery =>
    refine load_then_commit hwf hp (by simp [hlen]) (by simp [hlen]) (by omega) fun t _ hovf hframe => ⟨t, ?_, rfl⟩
    exact congrArg _ (hlen ▸ decodeEnvelope_of_frame .battery hovf hframe)
  case ready =>
    obtain ⟨b, rfl⟩ := List.length_eq_one_iff.1 hlen
    exact load_then_commit hwf hp rfl (by simp) (by simp) fun t _ hovf hframe => ⟨t, execDecReady_of_frame hovf hframe, rfl⟩

theorem load_append (a b : List Byte) : load a ++ append b = load (a ++ b) := by
  simp [load, append]

/-- No two responses together have a response's length. -/
theorem add_notMem_lengths : ∀ m ∈ [1, 12, 16, 18], ∀ n ∈ [1, 12, 16, 18], m + n ∉ [1, 12, 16, 18] := by
  decide

/-- Settles O40: the two responses are one load, which overruns FB or leaves a frame that has no response's length. -/
theorem concatenatedResponsesAreRejected : Obligations.ConcatenatedResponsesAreRejected := by
  unfold Obligations.ConcatenatedResponsesAreRejected
  intro s rest a b i hwf ha hb hi hp
  rw [load_append] at hp
  obtain ⟨t, ⟨-, -, hframe, hovf⟩, hrun⟩ := load_then_cmd hwf hp
  rw [List.length_append] at hovf hrun
  by_cases hover : s.params.fbCap < a.length + b.length
  · rw [if_pos hover]
    exact ⟨_, (hrun _ (exec_decoder_of_ovf hi (hovf.2 hover))).1, rfl, rfl, rfl⟩
  · rw [if_neg hover]
    have hnovf : t.ovf = false := Bool.eq_false_iff.2 (mt hovf.1 hover)
    have hlen : frameLen t = a.length + b.length := by
      rw [← frame_length, hframe, List.length_take, List.length_append]; omega
    have hmal := exec_decoder_of_length hi hnovf (hlen ▸ add_notMem_lengths _ ha _ hb)
    exact ⟨_, (hrun _ hmal).1, rfl, rfl, rfl⟩

end Sys2Proof.Machine
end

section
/-! PROOFS. The command codes and the pseudo-instructions (O5, O6, O7, O8): each command has one code, the other bytes are the
ranges of 30_encoding.md R73, and a pseudo-instruction is the accesses its parts are. -/

namespace Sys2Proof.Machine

/-- Settles O5, code by code: each is the code that `encode` gives its command. -/
theorem listedCodesDecode : Obligations.ListedCodesDecode := by
  unfold Obligations.ListedCodesDecode
  exact ⟨decodeByte_encode .nop, decodeByte_encode .fbClr, decodeByte_encode .crcInit, decodeByte_encode .crcByte,
    decodeByte_encode .checksum, decodeByte_encode .appendCrc, decodeByte_encode .validate, decodeByte_encode .decStatus,
    decodeByte_encode .decConfig, decodeByte_encode .decBattery, decodeByte_encode .decReady, decodeByte_encode .lkReady,
    decodeByte_encode .lkPtype, decodeByte_encode .lkPcolor, decodeByte_encode .lkTimeout, decodeByte_encode .lkBeep⟩

theorem instr_wf (i : Instr) : i.wf = true := by
  cases i <;> rfl

/-- Settles O6: `encode` and `decodeByte` undo each other. -/
theorem decodeAndEncodeAgree : Obligations.DecodeAndEncodeAgree := by
  unfold Obligations.DecodeAndEncodeAgree
  exact fun i => ⟨instr_wf i, decodeByte_encode i, fun _ => eq_encode_of_decodeByte⟩

/-! ### The illegal codes -/

/-- The four ranges of R73. -/
abbrev InIllegalRanges (v : Byte) : Prop :=
  (0x02 ≤ v.toNat ∧ v.toNat ≤ 0x0F) ∨ (0x15 ≤ v.toNat ∧ v.toNat ≤ 0x1F) ∨ (0x24 ≤ v.toNat ∧ v.toNat ≤ 0x2F) ∨ 0x35 ≤ v.toNat

theorem not_inIllegalRanges_encode (i : Instr) : ¬ InIllegalRanges (encode i) := by
  cases i <;> decide

/-- A byte outside the ranges of R73 is the code of a row of the command map. -/
theorem exists_row_of_not_inIllegalRanges : ∀ v : Byte, ¬ InIllegalRanges v → ∃ row ∈ opcodeTable, v = encode row.instr := by
  decide

theorem inIllegalRanges_iff_decodes_to_none (v : Byte) : (∀ i, decodeByte v ≠ .ok i) ↔ InIllegalRanges v := by
  constructor
  · intro hnone
    by_contra hout
    obtain ⟨row, -, rfl⟩ := exists_row_of_not_inIllegalRanges v hout
    exact hnone row.instr (decodeByte_encode row.instr)
  · intro hin i hv
    exact not_inIllegalRanges_encode i (eq_encode_of_decodeByte hv ▸ hin)

/-- The rejection of a byte names the byte. -/
theorem decodeByte_eq_error_iff (v : Byte) : decodeByte v = .error (.illegalCommand v) ↔ InIllegalRanges v := by
  rw [← inIllegalRanges_iff_decodes_to_none]
  unfold decodeByte
  split <;> simp

theorem length_filter_inIllegalRanges : ((List.range 256).filter fun n => InIllegalRanges (BitVec.ofNat 8 n)).length = 240 := by
  decide +kernel

/-- Settles O7: the ranges are what `encode` leaves out, and the CMD write is the one of `cmdWriteRunsTheDecodedCommand`. -/
theorem illegalCodesOnlySetErr : Obligations.IllegalCodesOnlySetErr := by
  unfold Obligations.IllegalCodesOnlySetErr
  refine ⟨inIllegalRanges_iff_decodes_to_none, ?count, fun s rest v hp hin => ?write⟩
  case count =>
    simp only [decodeByte_eq_error_iff]
    exact length_filter_inIllegalRanges
  case write =>
    obtain ⟨-, herror⟩ := (cmdWriteRunsTheDecodedCommand s rest v).1 hp
    exact herror _ ((decodeByte_eq_error_iff v).2 hin)

/-! ### The pseudo-instructions -/

theorem cmd_eq (i : Instr) : cmd i = [.write 0x00#8 (encode i)] := by
  rw [cmd, wr, wrAt, offsetOf_cmd]

theorem wr_din (v : Byte) : wr .din v = [.write 0x03#8 v] := by
  rw [wr, wrAt, offsetOf_din]

theorem append_nil : append [] = [] := rfl

theorem append_cons (b : Byte) (bytes : List Byte) : append (b :: bytes) = .write 0x04#8 b :: append bytes := by
  rw [append, List.flatMap_cons, wr, wrAt, offsetOf_fbdata]
  rfl

theorem load_eq (bytes : List Byte) : load bytes = .write 0x00#8 0x01#8 :: append bytes := by
  rw [load, cmd_eq]
  rfl

/-- A command on a byte in DIN, as `crcbyte` and `lookup` issue it. -/
theorem wr_din_cmd (v : Byte) (i : Instr) : wr .din v ++ cmd i = [.write 0x03#8 v, .write 0x00#8 (encode i)] := by
  rw [wr_din, cmd_eq]
  rfl

theorem rd_eq (r : Reg) {o : Byte} (h : offsetOf r = o) : rd r = [.read o] := by
  rw [rd, rdAt, h]

/-- Settles O8, pseudo-instruction by pseudo-instruction. -/
theorem pseudoInstructionsExpand : Obligations.PseudoInstructionsExpand := by
  unfold Obligations.PseudoInstructionsExpand
  refine ⟨fun b bytes => by rw [load_eq, append_cons], load_eq [], append_cons, append_nil, fun v => wr_din_cmd v .crcByte,
    fun v => wr_din_cmd v .lkReady, fun v => wr_din_cmd v .lkPtype, fun v => wr_din_cmd v .lkPcolor,
    fun v => wr_din_cmd v .lkTimeout, fun v => wr_din_cmd v .lkBeep, ?crc, ?rxc⟩
  case crc => exact congrArg₂ _ (rd_eq .crch (by decide)) (rd_eq .crcl (by decide))
  case rxc => exact congrArg₂ _ (rd_eq .rxch (by decide)) (rd_eq .rxcl (by decide))

end Sys2Proof.Machine
end

section
/-! PROOFS. The read and write columns of 30_encoding.md R72: what a command writes (O44) and what a decode's result depends on
(O41). -/

namespace Sys2Proof.Machine

/-- Settles O44, register by register, from what every command keeps off its row. -/
theorem commandsWriteOnlyTheirRow : Obligations.CommandsWriteOnlyTheirRow := by
  unfold Obligations.CommandsWriteOnlyTheirRow
  intro i s t hexec
  have hk := keepsOffRow_of_exec hexec
  exact ⟨hk.params, hk.pending, hk.returned, hk.din, fun hi => ⟨hk.fbptr hi, hk.ovf hi⟩, hk.fblen, hk.fb, hk.fbOutside, hk.crc,
    hk.rxc, fun hi => ⟨hk.record hi, hk.rkind hi⟩, hk.plen, fun hi => ⟨hk.lkidx hi, hk.lkflg hi, hk.lkmin hi⟩⟩

/-- The two states agree in what a decoder command reads (R72): the parameters, OVF and the frame. -/
structure SameDecoderInput (s s' : State) : Prop where
  params : s'.params = s.params
  ovf : s'.ovf = s.ovf
  fblen : s'.fblen = s.fblen
  frame : frame s' = frame s

/-- The result of a decode: REC, RKIND, PLEN and ERR (41_decoder.md R110). -/
def decodeResult (t : State) : Vector Byte 16 × RecordKind × Byte × ResultCode := (t.record, t.rkind, t.plen, t.err)

/-- The result of a decode that answered a next state. -/
def decodeResultOf (o : Host.Outcome State Fault Refusal) : Option (Vector Byte 16 × RecordKind × Byte × ResultCode) :=
  match o with
  | .next t => some (decodeResult t)
  | _ => none

namespace SameDecoderInput

variable {s s' : State}

theorem frameLen (h : SameDecoderInput s s') : frameLen s' = frameLen s :=
  congrArg BitVec.toNat h.fblen

theorem statusPayloadLen (h : SameDecoderInput s s') : statusPayloadLen s' = statusPayloadLen s :=
  congrArg (fun p : Params => p.statusLen.bytes) h.params

/-- The buffer of the one holds the frame of the other, so the operands taken from FB are those of `SameFrame`. -/
theorem sameFrame (h : SameDecoderInput s s') : SameFrame s s'.fb := by
  intro i hi
  have hbyte : (Machine.frame s')[i]? = (Machine.frame s)[i]? := by rw [h.frame]
  rw [frame_getElem?, frame_getElem?, h.frameLen, if_pos hi, if_pos hi] at hbyte
  exact Option.some.inj hbyte

theorem payload (h : SameDecoderInput s s') {n : Nat} (hn : n ≤ Machine.frameLen s) : payload s' n = payload s n :=
  h.sameFrame.payload hn

theorem receivedCrc (h : SameDecoderInput s s') {n : Nat} (hn : n + 2 ≤ Machine.frameLen s) :
    receivedCrc s' n = receivedCrc s n :=
  h.sameFrame.receivedCrc hn

theorem envCheck (h : SameDecoderInput s s') (pre : List Byte) (n : Nat) : envCheck pre n s' = envCheck pre n s := by
  rw [← h.sameFrame.envCheck pre n]
  unfold Machine.envCheck
  rw [h.frameLen, h.params]
  rfl

theorem execDecStatus (h : SameDecoderInput s s') : decodeResultOf (execDecStatus s') = decodeResultOf (execDecStatus s) := by
  unfold Machine.execDecStatus
  dsimp only
  rw [h.ovf, h.frameLen, h.statusPayloadLen]
  by_cases hlen : Machine.frameLen s = Machine.statusPayloadLen s + crcLen
  · have hle : Machine.statusPayloadLen s + 2 ≤ Machine.frameLen s := hlen.ge
    rw [h.receivedCrc hle, h.payload (Nat.le_of_add_right_le hle)]
    split_ifs <;> rfl
  · split_ifs <;> rfl

theorem decodeEnvelope (h : SameDecoderInput s s') (k : RecordKind) (pre : List Byte) (n : Nat) :
    decodeResult (decodeEnvelope k pre n s') = decodeResult (decodeEnvelope k pre n s) := by
  unfold Machine.decodeEnvelope
  rw [h.ovf, h.envCheck]
  split_ifs
  · rfl
  · cases Machine.envCheck pre n s <;> rfl

theorem execDecReady (h : SameDecoderInput s s') : decodeResultOf (execDecReady s') = decodeResultOf (execDecReady s) := by
  unfold Machine.execDecReady
  rw [h.ovf, h.frameLen]
  by_cases hlen : Machine.frameLen s = readyFrameLen
  · have hbyte : fbByte s' 0 = fbByte s 0 := h.sameFrame 0 (hlen ▸ Nat.one_pos)
    rw [hbyte]
    split_ifs <;> rfl
  · split_ifs <;> rfl

theorem exec (h : SameDecoderInput s s') {i : Instr} (hi : i ∈ [Instr.decStatus, .decConfig, .decBattery, .decReady]) :
    decodeResultOf (exec i s') = decodeResultOf (exec i s) := by
  fin_cases hi
  · exact h.execDecStatus
  · exact congrArg some (h.decodeEnvelope _ _ _)
  · exact congrArg some (h.decodeEnvelope _ _ _)
  · exact h.execDecReady

end SameDecoderInput

/-- Settles O41: a decoder command of two states that agree in what it reads has one result. -/
theorem decodeResultDependsOnlyOnTheFrame : Obligations.DecodeResultDependsOnlyOnTheFrame := by
  unfold Obligations.DecodeResultDependsOnlyOnTheFrame
  intro i s s' t t' hi hparams hovf hfblen hframe ht ht'
  have hsame : SameDecoderInput s s' := ⟨hparams, hovf, hfblen, hframe⟩
  have hresult : decodeResult t' = decodeResult t := by
    simpa [ht, ht', decodeResultOf] using hsame.exec hi
  simpa [decodeResult] using hresult

end Sys2Proof.Machine
end

section
/-! PROOFS. The checksum function (O24, O25, O26, O27): `crc_step` is an iterate of one invertible iteration, so no change of the
register or of a byte is lost, and a register that is fed its own low byte is shifted down by eight. -/

namespace Sys2Proof.Machine

theorem crcIters_eq_iterate (k : Nat) : crcIters k = crcIter^[k] := by
  induction k with
  | zero => rfl
  | succ k ih => funext c; rw [crcIters_succ, ih, Function.iterate_succ_apply]

/-- Settles O24: reading the register as a number carries the loop over, iteration by iteration (`crcIter_toNat`). -/
theorem crcStepIsEightConditionalShifts : Obligations.CrcStepIsEightConditionalShifts := by
  unfold Obligations.CrcStepIsEightConditionalShifts
  intro c b
  have hiter : Function.Semiconj BitVec.toNat crcIter
      (fun x : Nat => if x % 2 = 1 then (x / 2) ^^^ 0xA001 else x / 2) := crcIter_toNat
  rw [crcStep, crcIters_eq_iterate, hiter.iterate_right 8, BitVec.toNat_xor, BitVec.toNat_setWidth_of_le (by decide)]

theorem crcIters_injective (k : Nat) : Function.Injective (crcIters k) :=
  crcIters_eq_iterate k ▸ crcIter_injective.iterate k

theorem crcStep_injective_register (b : Byte) : Function.Injective fun c => crcStep c b := fun _ _ h =>
  (BitVec.xor_left_inj _).1 (crcIters_injective 8 h)

theorem loByte_setWidth (b : Byte) : loByte (b.setWidth 16) = b := by
  simp [loByte]

theorem crcStep_injective_byte (c : Word16) : Function.Injective (crcStep c) := by
  intro a b h
  have hwide : a.setWidth 16 = b.setWidth 16 := (BitVec.xor_right_inj c).1 (crcIters_injective 8 h)
  rw [← loByte_setWidth a, hwide, loByte_setWidth]

/-- Settles O25; an injection of the finite type of registers into itself is a bijection. -/
theorem crcStepIsBijectiveInTheRegister : Obligations.CrcStepIsBijectiveInTheRegister := by
  unfold Obligations.CrcStepIsBijectiveInTheRegister
  exact ⟨fun b => Finite.injective_iff_bijective.1 (crcStep_injective_register b), crcStep_injective_byte⟩

/-- Settles O26, by running the function on the listed bytes. -/
theorem checksumReferenceValues : Obligations.ChecksumReferenceValues := by
  unfold Obligations.ChecksumReferenceValues
  decide +kernel

/-! ### Feeding a register its own bytes -/

/-- Where the low `k` bits are clear, `k` iterations only shift: no test of bit 0 succeeds. -/
theorem crcIters_of_low_clear {k : Nat} {c : Word16} (h : ∀ i < k, c.getLsbD i = false) : crcIters k c = c >>> k := by
  induction k generalizing c with
  | zero => simp
  | succ k ih =>
    have hfirst : crcIter c = c >>> 1 := if_neg (ne_true_of_eq_false (h 0 (Nat.succ_pos k)))
    have hlow : ∀ i < k, (c >>> 1).getLsbD i = false := fun i hi => by
      rw [BitVec.getLsbD_ushiftRight, h (1 + i) (by omega)]
    rw [crcIters_succ, hfirst, ih hlow, ← BitVec.shiftRight_add, Nat.add_comm]

/-- A register that is fed its own low byte is left with its high byte. -/
theorem crcStep_loByte (c : Word16) : crcStep c (loByte c) = (hiByte c).setWidth 16 := by
  have hlow : ∀ i < 8, (c ^^^ (loByte c).setWidth 16).getLsbD i = false := fun i hi => by
    simp [loByte, hi, Nat.lt_trans hi]
  rw [crcStep, crcIters_of_low_clear hlow]
  apply BitVec.eq_of_getLsbD_eq
  intro i hi
  by_cases hi8 : i < 8
  · simp [loByte, hiByte, hi8, hi]
  · have hout : c.getLsbD (8 + i) = false := BitVec.getLsbD_of_ge c (8 + i) (by omega)
    simp [loByte, hiByte, hi8, hout]

theorem crcStep_setWidth_self (b : Byte) : crcStep (b.setWidth 16) b = 0x0000#16 := by
  rw [crcStep, BitVec.xor_self]
  rfl

/-- Settles O27: the low byte shifts the register down to its high byte, which the high byte then cancels. -/
theorem lowByteFirstWouldLeaveZeroResidue : Obligations.LowByteFirstWouldLeaveZeroResidue := by
  unfold Obligations.LowByteFirstWouldLeaveZeroResidue
  intro bytes
  rw [crc16_append, crcFeed_cons, crcFeed_cons, crcFeed_nil, crcStep_loByte, crcStep_setWidth_self]

/-! ### A changed byte changes the checksum (40_checksum.md R99) -/

theorem crcFeed_injective_register (bytes : List Byte) : Function.Injective fun c => crcFeed c bytes := by
  induction bytes with
  | nil => exact Function.injective_id
  | cons b bytes ih => exact ih.comp (crcStep_injective_register b)

theorem crcFeed_set_ne {c : Word16} {bytes : List Byte} {k : Nat} {v : Byte} (hk : k < bytes.length)
    (hv : bytes[k]? ≠ some v) : crcFeed c (bytes.set k v) ≠ crcFeed c bytes := by
  induction bytes generalizing c k with
  | nil => exact absurd hk (Nat.not_lt_zero k)
  | cons b bytes ih =>
    cases k with
    | zero =>
      intro h
      have hbyte : v = b := crcStep_injective_byte c (crcFeed_injective_register bytes h)
      exact hv (congrArg some hbyte.symm)
    | succ k => exact ih (Nat.lt_of_succ_lt_succ hk) hv

end Sys2Proof.Machine
end

section
/-! PROOFS. The commands of the checksum engine (O28, O29, O30, O31, O32): the ends of each, and a stream of CRC_BYTE. -/

namespace Sys2Proof.Machine

/-- Settles O28, by the meaning of CRC_INIT. -/
theorem crcInitSetsAllOnes : Obligations.CrcInitSetsAllOnes := by
  unfold Obligations.CrcInitSetsAllOnes
  exact ⟨decodeByte_encode .crcInit, fun _ => rfl⟩

theorem exec_crcByte (s : State) : exec .crcByte s = .next { s with crc := crcStep s.crc s.din, err := .ok } := rfl

/-- `crcbyte v` (30_encoding.md R76) is two accesses: DIN takes the byte, CRC_BYTE feeds it. -/
theorem runSteps_crcbyte {s : State} {v : Byte} {rest : List HostEvent} (hp : s.pending = crcbyte v ++ rest) :
    runSteps 2 s = .next { s with pending := rest, crc := crcStep s.crc v, din := v, err := .ok } := by
  have hpend : s.pending = .write 0x03#8 v :: (cmd .crcByte ++ rest) := by
    rw [hp, crcbyte, wr_din, List.append_assoc]
    rfl
  have hdin : step s = .next { s with pending := cmd .crcByte ++ rest, din := v } := by
    rw [step_of_pending hpend, hostEvent_write, hostWrite_din]
  rw [runSteps_succ_of hdin, runSteps_succ_of ((step_of_cmd rfl).trans (exec_crcByte _)), runSteps_zero]

/-- A `crcbyte` of each byte of a list, ERR being OK before the first. -/
theorem runSteps_crcbytes {s : State} {bytes : List Byte} {rest : List HostEvent} (herr : s.err = .ok)
    (hp : s.pending = bytes.flatMap crcbyte ++ rest) :
    runSteps (2 * bytes.length) s =
      .next { s with pending := rest, crc := crcFeed s.crc bytes, din := bytes.getLastD s.din, err := .ok } := by
  induction bytes generalizing s with
  | nil =>
    obtain rfl : s.pending = rest := hp
    rw [← herr]
    rfl
  | cons b bytes ih =>
    have hfirst := runSteps_crcbyte (rest := bytes.flatMap crcbyte ++ rest) (by rw [hp, List.flatMap_cons, List.append_assoc])
    rw [List.length_cons, Nat.mul_succ, Nat.add_comm, runSteps_add_of _ hfirst, ih rfl rfl, List.getLastD_cons]
    rfl

/-- Settles O29: CRC_INIT loads the register from which `crc16` feeds the bytes. -/
theorem crcByteFeedsDinAndStreamsMatchCrc16 : Obligations.CrcByteFeedsDinAndStreamsMatchCrc16 := by
  unfold Obligations.CrcByteFeedsDinAndStreamsMatchCrc16
  refine ⟨decodeByte_encode .crcByte, exec_crcByte, fun s rest bytes hp => ?_⟩
  have hinit := step_of_cmd (hp.trans (List.append_assoc _ _ _))
  rw [Nat.add_comm, runSteps_succ_of hinit, runSteps_crcbytes rfl rfl]
  exact ⟨_, rfl, rfl⟩

/-- `MemRead(0, n)` is the first `n` bytes of FB. -/
theorem memRead_from_zero (s : State) (n : Nat) : memRead s 0 n = (List.range n).map (fbByte s) := by
  simp [memRead]

/-- Settles O30, by whether OVF is set. -/
theorem checksumCoversTheFrame : Obligations.ChecksumCoversTheFrame := by
  unfold Obligations.ChecksumCoversTheFrame
  refine ⟨decodeByte_encode .checksum, fun s => ⟨fun ho => ?_, fun ho => if_pos ho⟩⟩
  rw [← memRead_from_zero]
  exact if_neg (ne_true_of_eq_false ho)

/-- VALIDATE accepts a frame that ends in its checksum (R97). -/
theorem exec_validate_of_checksum {s : State} {p : List Byte} (ho : s.ovf = false)
    (hf : frame s = p ++ [hiByte (crc16 p), loByte (crc16 p)]) :
    exec .validate s = .next (finish { storeChecksums p.length s with plen := s.fblen - 2#8 }) := by
  rw [exec, execValidate_of_frame ho hf, joinBytes_hi_lo, if_pos rfl]

/-- What APPEND_CRC with room leaves is a frame that ends in its checksum, so VALIDATE accepts it (R96, R97). -/
theorem exec_validate_of_appendCrc {s t : State} (hwf : s.params.wf = true) (ho : s.ovf = false)
    (hroom : frameLen s + 2 ≤ s.params.fbCap) (ht : exec .appendCrc s = .next t) :
    ∃ u, exec .validate t = .next u ∧ u.err = .ok ∧ u.plen = s.fblen := by
  obtain ⟨t', ht', hframe, hkeeps⟩ := execAppendCrc_of_room hwf ho hroom
  obtain rfl : t = t' := Host.Outcome.next.inj (ht.symm.trans ht')
  have hovf : t.ovf = false := by rw [hkeeps, ho]
  have hplen : t.fblen - 2#8 = s.fblen := by rw [hkeeps, BitVec.add_sub_cancel]
  exact ⟨_, exec_validate_of_checksum hovf hframe, rfl, hplen⟩

/-- What a MemWrite of two bytes leaves at every index. -/
theorem fbByte_memWrite_pair (s : State) (i : Nat) (h l : Byte) :
    fbByte (memWrite s i [h, l]) i = h ∧ fbByte (memWrite s i [h, l]) (i + 1) = l ∧
    ∀ a, a ≠ i → a ≠ i + 1 → fbByte (memWrite s i [h, l]) a = fbByte s a := by
  refine ⟨by simp [fbByte_memWrite], by simp [fbByte_memWrite], fun a h0 h1 => ?_⟩
  rw [fbByte_memWrite, dif_neg]
  simp only [List.length_cons, List.length_nil]
  omega

/-- Settles O31, by the ends of APPEND_CRC. -/
theorem appendCrcStoresTheChecksumHighByteFirst : Obligations.AppendCrcStoresTheChecksumHighByteFirst := by
  unfold Obligations.AppendCrcStoresTheChecksumHighByteFirst
  refine ⟨decodeByte_encode .appendCrc, fun s => ?_⟩
  rcases execAppendCrc_cases s with ⟨hfull, hend⟩ | ⟨ho, hroom, hend⟩
  · refine ⟨fun ho hroom => ?_, fun _ => hend, fun _ => hend⟩
    have hno : s.params.fbCap < frameLen s + 2 := hfull.resolve_left (ne_true_of_eq_false ho)
    exact absurd hroom (Nat.not_le.2 hno)
  · obtain ⟨hhigh, hlow, hothers⟩ :=
      fbByte_memWrite_pair s (frameLen s) (hiByte (crc16 (frame s))) (loByte (crc16 (frame s)))
    exact ⟨fun _ _ => ⟨_, hend, rfl, (congrArg BitVec.toNat hhigh).trans (hiByte_toNat _),
        (congrArg BitVec.toNat hlow).trans (loByte_toNat _), hothers,
        fun hwf => exec_validate_of_appendCrc hwf ho hroom hend⟩,
      fun hovf => absurd hovf (ne_true_of_eq_false ho), fun hno => absurd hroom (Nat.not_le.2 hno)⟩

/-- The last two bytes of a frame, high byte first (20_memory.md R54). -/
theorem receivedCrc_toNat {s : State} (hlen : 2 ≤ frameLen s) : (receivedCrc s (frameLen s - 2)).toNat =
    (fbByte s (frameLen s - 2)).toNat * 256 + (fbByte s (frameLen s - 1)).toNat := by
  have hlast : frameLen s - 2 + 1 = frameLen s - 1 := by omega
  rw [receivedCrc, joinBytes_toNat, hlast]

/-- Settles O32, by the ends of VALIDATE. -/
theorem validateComparesTheTrailingChecksum : Obligations.ValidateComparesTheTrailingChecksum := by
  unfold Obligations.ValidateComparesTheTrailingChecksum
  refine ⟨decodeByte_encode .validate, fun s => ?_⟩
  have hpayload : crc16 (payload s (frameLen s - 2)) = crc16 ((List.range (frameLen s - 2)).map (fbByte s)) :=
    congrArg crc16 (memRead_from_zero s _)
  rcases execValidate_cases s with ⟨ho, hend⟩ | ⟨ho, hshort, hend⟩ | ⟨ho, hlen, hne, hend⟩ | ⟨ho, hlen, heq, hend⟩
  · exact ⟨fun _ => hend, by simp [ho], by simp [ho]⟩
  · exact ⟨by simp [ho], fun _ _ => hend, fun _ hlen => absurd hshort (Nat.not_lt.2 hlen)⟩
  · exact ⟨by simp [ho], fun _ hshort => absurd hshort (Nat.not_lt.2 hlen),
      fun _ _ => ⟨_, _, hpayload, receivedCrc_toNat hlen, fun heq => absurd heq hne, fun _ => hend⟩⟩
  · exact ⟨by simp [ho], fun _ hshort => absurd hshort (Nat.not_lt.2 hlen),
      fun _ _ => ⟨_, _, hpayload, receivedCrc_toNat hlen, fun _ => hend, fun hne => absurd heq hne⟩⟩

end Sys2Proof.Machine
end

section
/-! PROOFS. Runs that load a frame with its checksum (O33, O34): a right checksum always validates, one wrong byte never does. -/

namespace Sys2Proof.Machine

/-- A command after `load` of bytes that fit runs in a state `t` whose frame is those bytes, with OVF clear. -/
theorem load_then_cmd_of_fit {s : State} {bytes : List Byte} {i : Instr} {rest : List HostEvent} (hwf : s.params.wf = true)
    (hfit : bytes.length ≤ s.params.fbCap) (hp : s.pending = load bytes ++ cmd i ++ rest) :
    ∃ t, (t.params = s.params ∧ t.pending = rest ∧ frame t = bytes ∧ t.ovf = false) ∧
      ∀ u, exec i t = .next u → runSteps (bytes.length + 2) s = .next u ∧
        (u.err = .ok → cleanRun (bytes.length + 2) s = true) := by
  obtain ⟨t, ⟨hpar, hpend, hframe, hovf⟩, hrun⟩ := load_then_cmd hwf hp
  refine ⟨t, ⟨hpar, hpend, hframe.trans (List.take_of_length_le hfit), ?_⟩, hrun⟩
  exact Bool.eq_false_iff.2 fun h => absurd (hovf.1 h) (Nat.not_lt.2 hfit)

/-- Settles O33: APPEND_CRC leaves the loaded bytes with their checksum, which VALIDATE accepts. -/
theorem appendedChecksumAlwaysValidates : Obligations.AppendedChecksumAlwaysValidates := by
  unfold Obligations.AppendedChecksumAlwaysValidates
  intro s rest bytes hwf hfit hp
  obtain ⟨t, ⟨hpar, hpend, hframe, ho⟩, hrun⟩ :=
    load_then_cmd_of_fit hwf (Nat.le_of_add_right_le hfit) (hp.trans (List.append_assoc _ _ _))
  have hlen : frameLen t = bytes.length := by rw [← frame_length, hframe]
  obtain ⟨u, hu, huframe, hkeeps⟩ := execAppendCrc_of_room (hpar ▸ hwf) ho (by rw [hlen, hpar]; exact hfit)
  rw [hframe] at huframe
  obtain ⟨hsteps, hclean⟩ := hrun u hu
  have huovf : u.ovf = false := by rw [hkeeps, ho]
  have hupend : u.pending = cmd .validate ++ rest := by rw [hkeeps, hpend]
  have huerr : u.err = .ok := by rw [hkeeps]
  have huplen : u.fblen - 2#8 = t.fblen := by rw [hkeeps, BitVec.add_sub_cancel]
  have hlast := (step_of_cmd hupend).trans (exec_validate_of_checksum (s := { u with pending := rest }) huovf huframe)
  refine ⟨?_, _, (runSteps_add_of 1 hsteps).trans (runSteps_succ_of hlast), rfl, ?_, huframe, rfl⟩
  · rw [cleanRun_add_of 1 hsteps, hclean huerr, cleanRun_succ_of hupend hlast (fun _ => rfl) rfl]
    rfl
  · exact (congrArg BitVec.toNat huplen).trans hlen

/-- A sequence with its checksum and one byte changed ends in two bytes that are not the checksum of the rest. -/
theorem exists_wrong_ending_of_set {bytes : List Byte} {k : Nat} {v : Byte} (hk : k < bytes.length + 2)
    (hv : (bytes ++ [hiByte (crc16 bytes), loByte (crc16 bytes)])[k]? ≠ some v) :
    ∃ p h l, (bytes ++ [hiByte (crc16 bytes), loByte (crc16 bytes)]).set k v = p ++ [h, l] ∧ crc16 p ≠ joinBytes h l := by
  rcases Nat.lt_or_ge k bytes.length with hin | hout
  · refine ⟨bytes.set k v, _, _, List.set_append_left _ _ hin, ?_⟩
    rw [List.getElem?_append_left hin] at hv
    rw [joinBytes_hi_lo]
    exact crcFeed_set_ne hin hv
  · obtain ⟨j, rfl⟩ := Nat.exists_eq_add_of_le hout
    rw [List.getElem?_append_right hout, Nat.add_sub_cancel_left] at hv
    rw [List.set_append_right _ _ hout, Nat.add_sub_cancel_left]
    have hbytes : ∀ {h l : Byte}, crc16 bytes = joinBytes h l → hiByte (crc16 bytes) = h ∧ loByte (crc16 bytes) = l :=
      fun heq => joinBytes_inj ((joinBytes_hi_lo _).trans heq)
    match j with
    | 0 => exact ⟨bytes, v, _, rfl, fun heq => hv (congrArg some (hbytes heq).1)⟩
    | 1 => exact ⟨bytes, _, v, rfl, fun heq => hv (congrArg some (hbytes heq).2)⟩
    | j + 2 => omega

/-- Settles O34: the loaded frame ends in two bytes that are not the checksum of the rest. -/
theorem anySingleByteCorruptionIsDetected : Obligations.AnySingleByteCorruptionIsDetected := by
  unfold Obligations.AnySingleByteCorruptionIsDetected
  intro s rest bytes k v hwf hfit hk hv hp
  obtain ⟨p, h, l, hset, hcrc⟩ := exists_wrong_ending_of_set hk hv
  have hlen : (p ++ [h, l]).length = bytes.length + 2 := by rw [← hset]; simp
  rw [hset] at hp
  obtain ⟨t, ⟨-, -, hframe, ho⟩, hrun⟩ := load_then_cmd_of_fit hwf (hlen.trans_le hfit) hp
  rw [hlen] at hrun
  exact ⟨_, (hrun _ ((execValidate_of_frame ho hframe).trans (if_neg hcrc))).1, rfl, rfl⟩

end Sys2Proof.Machine
end

section
/-! PROOFS. The decoder's commands, end by end (41_decoder.md R110–R117): what each commits and discards (O35, O36, O37, O38), and
when a record changes (O48). -/

namespace Sys2Proof.Machine

/-! ### How a decode ends -/

/-- The outcome `o` is `discard(code)` from `s` (R110): the record is cleared and nothing else but ERR changes. -/
def Discards (code : ResultCode) (s : State) (o : Host.Outcome State Fault Refusal) : Prop :=
  ∃ t, o = .next t ∧ t = { s with record := t.record, rkind := .none, plen := 0#8, err := code } ∧
    ∀ k : Fin 16, t.record[k] = 0#8

/-- The outcome `o` is the commit, from `s`, of the `n` bytes of FB from index `i` as a record of a kind (R110). -/
def Commits (kind : RecordKind) (i n : Nat) (s : State) (o : Host.Outcome State Fault Refusal) : Prop :=
  ∃ t, o = .next t ∧ t = { s with record := t.record, rkind := kind, plen := BitVec.ofNat 8 n, err := .ok } ∧
    ∀ k : Fin 16, t.record[k] = if k.val < n then fbByte s (i + k.val) else 0#8

theorem discards_of_eq {code : ResultCode} {s : State} {o : Host.Outcome State Fault Refusal}
    (h : o = .next (discardRecord code s)) : Discards code s o :=
  ⟨_, h, rfl, recordOf_nil_getElem⟩

/-- What a commit leaves, the payload's length known (R110). -/
theorem commitRecord_of_length {p : List Byte} {n : Nat} (kind : RecordKind) (s : State) (hp : p.length = n) :
    commitRecord kind p s = { s with record := recordOf p, rkind := kind, plen := BitVec.ofNat 8 n, err := .ok } := by
  rw [← hp]
  rfl

/-- REC after a commit of bytes of FB, byte by byte (10_state.md R37). -/
theorem recordOf_memRead_getElem (s : State) (i n : Nat) (k : Fin 16) :
    (recordOf (memRead s i n))[k] = if k.val < n then fbByte s (i + k.val) else 0#8 := by
  rw [recordOf_getElem]
  exact memRead_getD s i n k

/-- The payload that DEC_STATUS and DEC_READY commit begins at FB[0]. -/
theorem recordOf_payload_getElem (s : State) (n : Nat) (k : Fin 16) :
    (recordOf (payload s n))[k] = if k.val < n then fbByte s k.val else 0#8 := by
  rw [payload, recordOf_memRead_getElem, Nat.zero_add]

theorem commits_of_eq {kind : RecordKind} {i n : Nat} {s : State} {o : Host.Outcome State Fault Refusal}
    (h : o = .next (commitRecord kind (memRead s i n) s)) : Commits kind i n s o :=
  ⟨_, h, commitRecord_of_length kind s (memRead_length s i n), recordOf_memRead_getElem s i n⟩

/-- With OVF set every decoder command discards (60_exceptions.md R183). -/
theorem discards_of_ovf {s : State} {i : Instr} (hi : i ∈ [Instr.decStatus, .decConfig, .decBattery, .decReady])
    (ho : s.ovf = true) : Discards .fbOverflow s (exec i s) :=
  discards_of_eq (exec_decoder_of_ovf hi ho)

/-! ### Envelopes -/

/-- The frame is a whole envelope around `n` payload bytes (R111): its length, its prefix, and CR LF at the end with TERM_CHECK. -/
def WholeEnvelope (pre : List Byte) (n : Nat) (s : State) : Prop :=
  frameLen s = pre.length + n + 2 ∧ memRead s 0 pre.length = pre ∧
    (s.params.termCheck = true → memRead s (pre.length + n) 2 = envelopeTerminator)

/-- `env_check` accepts exactly the whole envelopes. -/
theorem envCheck_eq_some_memRead_iff {pre : List Byte} {n : Nat} {s : State} :
    envCheck pre n s = some (memRead s pre.length n) ↔ WholeEnvelope pre n s := by
  rw [envCheck_eq_some_iff, WholeEnvelope]
  constructor
  · rintro ⟨hpre, hlen, hterm, -⟩
    rw [hlen, Nat.add_sub_cancel] at hterm
    exact ⟨hlen, hpre, hterm⟩
  · rintro ⟨hlen, hpre, hterm⟩
    rw [hlen, Nat.add_sub_cancel]
    exact ⟨hpre, rfl, hterm, rfl⟩

/-- Without OVF, DEC_CONFIG and DEC_BATTERY commit a whole envelope's payload and discard every other frame (R113, R114). -/
theorem decodeEnvelope_ends (kind : RecordKind) (pre : List Byte) (n : Nat) {s : State} (ho : s.ovf = false) :
    (WholeEnvelope pre n s → Commits kind pre.length n s (.next (decodeEnvelope kind pre n s))) ∧
    (¬ WholeEnvelope pre n s → Discards .malformedResponse s (.next (decodeEnvelope kind pre n s))) := by
  rw [← envCheck_eq_some_memRead_iff]
  rcases decodeEnvelope_cases kind pre n s with ⟨hovf, -⟩ | ⟨-, hbad, hend⟩ | ⟨-, hgood, hend⟩
  · exact absurd hovf (ne_true_of_eq_false ho)
  · rw [hbad]
    exact ⟨nofun, fun _ => discards_of_eq (congrArg _ hend)⟩
  · exact ⟨fun _ => commits_of_eq (congrArg _ hend), fun hbad => absurd hgood hbad⟩

/-- A stretch of FB is a given list if its bytes are, one by one. -/
theorem memRead_succ_eq_cons_iff {s : State} {i n : Nat} {b : Byte} {bytes : List Byte} :
    memRead s i (n + 1) = b :: bytes ↔ fbByte s i = b ∧ memRead s (i + 1) n = bytes := by
  rw [Nat.add_comm n 1, memRead_add, memRead_one, List.singleton_append, List.cons.injEq]

/-- The CONFIG envelope of R113, byte by byte. -/
theorem wholeEnvelope_config_iff (s : State) : WholeEnvelope configPrefix configPayloadLen s ↔
    s.fblen.toNat = 18 ∧ fbByte s 0 = 0x43 ∧ fbByte s 1 = 0x4F ∧ fbByte s 2 = 0x4E ∧ fbByte s 3 = 0x46 ∧
      fbByte s 4 = 0x49 ∧ fbByte s 5 = 0x47 ∧ fbByte s 6 = 0x20 ∧
      (s.params.termCheck = true → fbByte s 16 = 0x0D ∧ fbByte s 17 = 0x0A) := by
  simp [WholeEnvelope, frameLen, configPrefix, configPayloadLen, envelopeTerminator, memRead_succ_eq_cons_iff, and_assoc]

/-- The BATTERY envelope of R114, byte by byte. -/
theorem wholeEnvelope_battery_iff (s : State) : WholeEnvelope batteryPrefix batteryPayloadLen s ↔
    s.fblen.toNat = 12 ∧ fbByte s 0 = 0x42 ∧ fbByte s 1 = 0x41 ∧ fbByte s 2 = 0x54 ∧ fbByte s 3 = 0x54 ∧
      fbByte s 4 = 0x45 ∧ fbByte s 5 = 0x52 ∧ fbByte s 6 = 0x59 ∧ fbByte s 7 = 0x20 ∧
      (s.params.termCheck = true → fbByte s 10 = 0x0D ∧ fbByte s 11 = 0x0A) := by
  simp [WholeEnvelope, frameLen, batteryPrefix, batteryPayloadLen, envelopeTerminator, memRead_succ_eq_cons_iff, and_assoc]

/-- Settles O36: the frames that DEC_CONFIG commits are the whole CONFIG envelopes. -/
theorem decConfigCommitsExactlyTheGoodEnvelopes : Obligations.DecConfigCommitsExactlyTheGoodEnvelopes := by
  unfold Obligations.DecConfigCommitsExactlyTheGoodEnvelopes
  refine ⟨decodeByte_encode .decConfig, fun s => ⟨discards_of_ovf (by decide), ?_⟩⟩
  rw [← wholeEnvelope_config_iff]
  exact ⟨fun ho => (decodeEnvelope_ends .config configPrefix configPayloadLen ho).1,
    fun ho => (decodeEnvelope_ends .config configPrefix configPayloadLen ho).2⟩

/-- Settles O37: the frames that DEC_BATTERY commits are the whole BATTERY envelopes. -/
theorem decBatteryCommitsExactlyTheGoodEnvelopes : Obligations.DecBatteryCommitsExactlyTheGoodEnvelopes := by
  unfold Obligations.DecBatteryCommitsExactlyTheGoodEnvelopes
  refine ⟨decodeByte_encode .decBattery, fun s => ⟨discards_of_ovf (by decide), ?_⟩⟩
  rw [← wholeEnvelope_battery_iff]
  exact ⟨fun ho => (decodeEnvelope_ends .battery batteryPrefix batteryPayloadLen ho).1,
    fun ho => (decodeEnvelope_ends .battery batteryPrefix batteryPayloadLen ho).2⟩

/-! ### Status frames and the readiness byte -/

/-- Settles O35, by the ends of DEC_STATUS. -/
theorem decStatusCommitsOnlyACheckedFrame : Obligations.DecStatusCommitsOnlyACheckedFrame := by
  unfold Obligations.DecStatusCommitsOnlyACheckedFrame
  refine ⟨decodeByte_encode .decStatus, ?_⟩
  rintro s n rfl
  refine ⟨discards_of_ovf (by decide), ?_⟩
  have hpayload : crc16 (payload s (statusPayloadLen s)) = crc16 ((List.range (statusPayloadLen s)).map (fbByte s)) :=
    congrArg crc16 (memRead_from_zero s _)
  rcases execDecStatus_cases s with ⟨hovf, -⟩ | ⟨ho, hne, hend⟩ | ⟨ho, hlen, hcrc, hend⟩ | ⟨ho, hlen, hcrc, hend⟩
  · simp [hovf]
  · exact ⟨fun _ _ => discards_of_eq hend, fun _ hlen => absurd hlen hne⟩
  · exact ⟨fun _ hne => absurd hlen hne, fun _ _ => ⟨_, _, _, hpayload, joinBytes_toNat _ _, hend,
      fun heq => absurd heq hcrc, fun _ => ⟨rfl, recordOf_nil_getElem⟩⟩⟩
  · exact ⟨fun _ hne => absurd hlen hne, fun _ _ => ⟨_, _, _, hpayload, joinBytes_toNat _ _, hend,
      fun _ => ⟨commitRecord_of_length _ _ (memRead_length s 0 _), recordOf_payload_getElem s _⟩,
      fun hne => absurd hcrc hne⟩⟩

/-- Settles O38, by the ends of DEC_READY. -/
theorem decReadyCommitsEveryOneByteFrame : Obligations.DecReadyCommitsEveryOneByteFrame := by
  unfold Obligations.DecReadyCommitsEveryOneByteFrame
  refine ⟨decodeByte_encode .decReady, fun s => ⟨discards_of_ovf (by decide), ?_⟩⟩
  rcases execDecReady_cases s with ⟨hovf, -⟩ | ⟨-, hne, hend⟩ | ⟨-, hlen, hend⟩
  · simp [hovf]
  · exact ⟨fun _ _ => discards_of_eq hend, fun _ hlen => absurd hlen hne⟩
  · refine ⟨fun _ hne => absurd hlen hne, fun _ _ => ⟨_, hend, rfl, fun k => ?_⟩⟩
    rw [commitRecord_record, ← memRead_one, ← payload, recordOf_payload_getElem]
    simp only [Nat.lt_one_iff]
    split_ifs with hk
    · rw [hk]
    · rfl

/-! ### When a record changes -/

/-- Settles O48: of the writers of each register (`registersChangeOnlyByTheirWriters`), those of REC and RKIND. -/
theorem recordsChangeOnlyAtDecodeOrReset : Obligations.RecordsChangeOnlyAtDecodeOrReset := by
  unfold Obligations.RecordsChangeOnlyAtDecodeOrReset
  intro s t hstep hchanged
  obtain ⟨-, hwriters⟩ := registersChangeOnlyByTheirWriters s t hstep
  by_cases hreset : s.pending.head? = some .reset
  · exact .inl hreset
  · obtain ⟨-, -, -, -, -, -, -, hrecord, -⟩ := hwriters hreset
    exact .inr (hrecord hchanged)

end Sys2Proof.Machine
end

section
/-! PROOFS. The enumerations and the lookups (42_enum_lookup.md R140–R152): the index of every byte in each enumeration (O20), the
texts a host shows for an index (O21), and what the five lookup commands write (O42). -/

namespace Sys2Proof.Machine

/-! ### Display indices -/

theorem index_readinessStatus_eq : ∀ v : Byte, index .readinessStatus v =
    if v = 0x00 then 0 else if v = 0x01 then 1 else if v = 0x04 then 2 else if v = 0x20 then 3 else 0xFF := by
  decide

theorem index_paperType_eq : ∀ v : Byte, index .paperType v = if v.toNat ≤ 2 then v else 0xFF := by decide

/-- Value 1 is no member (R143), so the members from 2 on stand one place lower than their value. -/
theorem index_paperColor_eq : ∀ v : Byte, index .paperColor v =
    if v = 0x00 then 0 else if 2 ≤ v.toNat ∧ v.toNat ≤ 6 then v - 1 else 0xFF := by
  decide

theorem index_timeoutSetting_eq : ∀ v : Byte, index .timeoutSetting v = if v.toNat ≤ 3 then v else 0xFF := by decide

theorem index_beepSetting_eq : ∀ v : Byte, index .beepSetting v = if v.toNat ≤ 1 then v else 0xFF := by decide

theorem lookupFlag_eq (isKnown : Bool) : lookupFlag isKnown = if isKnown then 1 else 0 := by
  cases isKnown <;> rfl

/-- No member's index is the unrecognized one (R140), since a lookup's two outputs agree. -/
theorem known_iff_index_ne (e : Enumeration) (v : Byte) : known e v = true ↔ index e v ≠ 0xFF := by
  rcases lookup_outputs_agree e v with ⟨hflag, hidx⟩ | ⟨hflag, hidx⟩
  · have hknown : known e v = true := by simpa [lookupFlag_eq] using hflag
    exact iff_of_true hknown fun heq => absurd (heq ▸ hidx) (by decide)
  · have hunknown : ¬ known e v = true := by simpa [lookupFlag_eq] using hflag
    exact iff_of_false hunknown (not_not_intro hidx)

/-- Settles O20, enumeration by enumeration. -/
theorem enumerationIndicesAreTheListedOnes : Obligations.EnumerationIndicesAreTheListedOnes := by
  unfold Obligations.EnumerationIndicesAreTheListedOnes
  exact fun v => ⟨index_readinessStatus_eq v, index_paperType_eq v, index_paperColor_eq v, index_timeoutSetting_eq v,
    index_beepSetting_eq v, fun e => known_iff_index_ne e v, rfl⟩

/-! ### Display texts -/

theorem defaultText_of_length_le {e : Enumeration} {idx : Byte} (h : (members e).length ≤ idx.toNat) :
    defaultText e idx = "Unknown" := by
  rw [defaultText, List.getElem?_eq_none h]

/-- An entry that a legal DISPLAY_TEXT holds for the unrecognized index has the text "Unknown" (R146). -/
theorem text_of_mem_displayText {p : Params} (hwf : p.wf = true) {entry : (Enumeration × Byte) × String}
    (hmem : entry ∈ p.displayText) (hidx : entry.1.2 = 0xFF#8) : entry.2 = "Unknown" := by
  have htext : p.textLegal = true := (Bool.and_eq_true_iff.1 hwf).2
  have hentry := List.all_eq_true.1 htext entry hmem
  simpa [hidx] using hentry

theorem displayText_unrecognized {p : Params} (hwf : p.wf = true) (e : Enumeration) : displayText p e 0xFF#8 = "Unknown" := by
  unfold displayText
  split
  next entry hfind =>
    have hkey : entry.1 = (e, 0xFF#8) := by simpa using List.find?_some hfind
    exact text_of_mem_displayText hwf (List.mem_of_find?_eq_some hfind) (congrArg Prod.snd hkey)
  next => exact defaultText_of_length_le (by cases e <;> decide)

/-- Settles O21: what a legal DISPLAY_TEXT can hold for the index 0xFF; the default texts are read off the lists of members. -/
theorem unrecognizedIndexShowsUnknown : Obligations.UnrecognizedIndexShowsUnknown := by
  unfold Obligations.UnrecognizedIndexShowsUnknown
  exact ⟨fun _ e hwf => displayText_unrecognized hwf e, rfl, rfl, rfl, rfl, rfl⟩

/-! ### The lookup commands -/

/-- What a lookup command writes, the index of DIN and its membership known (10_state.md R44). -/
theorem exec_eq_of_lookup {i : Instr} {s : State} {e : Enumeration} {m idx : Byte} {p : Prop} [Decidable p]
    (hexec : exec i s = .next (lookup e m s)) (hidx : index e s.din = idx) (hknown : known e s.din = true ↔ p) :
    exec i s = .next { s with lkidx := idx, lkflg := if p then 1 else 0, lkmin := m, err := .ok } := by
  rw [hexec, lookup, finish, hidx, lookupFlag_eq]
  simp only [hknown]

/-- Settles O42, lookup by lookup: each writes the index, the membership and the minutes of DIN. -/
theorem lookupsWriteTheirOutputs : Obligations.LookupsWriteTheirOutputs := by
  unfold Obligations.LookupsWriteTheirOutputs
  exact ⟨decodeByte_encode .lkReady, decodeByte_encode .lkPtype, decodeByte_encode .lkPcolor, decodeByte_encode .lkTimeout,
    decodeByte_encode .lkBeep, fun s => ⟨
      exec_eq_of_lookup rfl (index_readinessStatus_eq _) (known_readinessStatus_iff _),
      exec_eq_of_lookup rfl (index_paperType_eq _) (known_paperType_iff _),
      exec_eq_of_lookup rfl (index_paperColor_eq _) (known_paperColor_iff _),
      exec_eq_of_lookup rfl (index_timeoutSetting_eq _) (known_timeoutSetting_iff _),
      exec_eq_of_lookup rfl (index_beepSetting_eq _) (known_beepSetting_iff _)⟩⟩

end Sys2Proof.Machine
end

section
/-! PROOFS. The control commands (43_control.md): NOP changes ERR alone and no other command does (O22), FB_CLR empties the buffer
and no other command clears OVF (O23). -/

namespace Sys2Proof.Machine

/-- A state in which every command but NOP shows an effect: OVF is set, CRC is not CRC_INIT's value and CRC_BYTE changes it, and no
display index is 0xFE. -/
def everyEffectShows : State :=
  { State.reset with crc := 0x0000#16, ovf := true, din := 0x01#8, lkidx := 0xFE#8 }

/-- One register tells each command from NOP: OVF shows FB_CLR, CRC the two that write only CRC and ERR, ERR the seven that OVF
stops, LKIDX the lookups. -/
theorem eq_nop_of_exec_everyEffectShows {i : Instr}
    (h : exec i everyEffectShows = .next { everyEffectShows with err := .ok }) : i = .nop := by
  cases i with
  | nop => rfl
  | fbClr => exact absurd (congrArg State.ovf (Host.Outcome.next.inj h)) (by decide)
  | crcInit | crcByte => exact absurd (congrArg State.crc (Host.Outcome.next.inj h)) (by decide)
  | checksum | appendCrc | validate | decStatus | decConfig | decBattery | decReady =>
    exact absurd (congrArg State.err (Host.Outcome.next.inj h)) (by decide)
  | lkReady | lkPtype | lkPcolor | lkTimeout | lkBeep =>
    exact absurd (congrArg State.lkidx (Host.Outcome.next.inj h)) (by decide)

/-- Settles O22: a command that acts as NOP in every state acts so where every other command shows an effect. -/
theorem nopOnlyClearsErr : Obligations.NopOnlyClearsErr := by
  unfold Obligations.NopOnlyClearsErr
  exact ⟨decodeByte_encode .nop, fun _ => rfl, fun _ h => eq_nop_of_exec_everyEffectShows (h everyEffectShows)⟩

/-- Settles O23: every command but FB_CLR leaves OVF as it was (`CommandEnd.ovf_eq`). -/
theorem fbClrEmptiesTheBufferAndOvf : Obligations.FbClrEmptiesTheBufferAndOvf := by
  unfold Obligations.FbClrEmptiesTheBufferAndOvf
  refine ⟨decodeByte_fbClr, fun _ => rfl, fun i s t hset hexec hclear => ?_⟩
  by_contra hi
  have hkept : t.ovf = s.ovf := (commandEnd_of_exec hexec).ovf_eq.trans (if_neg hi)
  exact Bool.false_ne_true (hclear.symm.trans (hkept.trans hset))

end Sys2Proof.Machine
end

section
/-! PROOFS. The result codes (60_exceptions.md R180–R188, R199): every access has a step (O43), a command overwrites ERR (O45),
FB_OVERFLOW has the causes and effects of R183 (O46), and ERR holds the code of the first cause in R187's order (O54). -/

namespace Sys2Proof.Machine

/-! ### Every access has a step -/

theorem exec_answers (i : Instr) (s : State) : ∃ t, exec i s = .next t := by
  obtain ⟨t, ht, -⟩ := exec_commandEnd i s
  exact ⟨t, ht⟩

theorem runCommand_answers (v : Byte) (s : State) : ∃ t, runCommand v s = .next t := by
  cases hv : decodeByte v with
  | ok i =>
    rw [runCommand_of_ok hv]
    exact exec_answers i s
  | error r => exact ⟨_, runCommand_of_error hv s⟩

theorem hostWrite_answers (o v : Byte) (s : State) : ∃ t, hostWrite o v s = .next t := by
  unfold hostWrite
  split
  · exact runCommand_answers v s
  all_goals exact ⟨_, rfl⟩

theorem hostEvent_answers (e : HostEvent) (s : State) : ∃ t, hostEvent e s = .next t := by
  cases e with
  | write o v => exact hostWrite_answers o v s
  | read o => exact ⟨_, rfl⟩
  | reset => exact ⟨_, rfl⟩

/-- Settles O43, by whether an event is pending; of a command `exec_commandEnd` says it. -/
theorem everyStepAnswersANextState : Obligations.EveryStepAnswersANextState := by
  unfold Obligations.EveryStepAnswersANextState
  refine ⟨fun s => ?_, exec_answers⟩
  cases hp : s.pending with
  | nil => exact ⟨s, step_of_nil hp⟩
  | cons e rest =>
    rw [step_of_pending hp]
    exact hostEvent_answers e _

/-- Settles O45, command by command: each ends in `finish` or `raise`, which overwrite ERR, and reads ERR nowhere before. -/
theorem everyCommandOverwritesErr : Obligations.EveryCommandOverwritesErr := by
  unfold Obligations.EveryCommandOverwritesErr
  intro i s e
  cases i <;> rfl

/-! ### The first cause -/

/-- The commands that read FB, which OVF stops (R183). -/
abbrev fbReaders : List Instr := [.checksum, .appendCrc, .validate, .decStatus, .decConfig, .decBattery, .decReady]

/-- The length, prefix and terminator checks of a command find a fault (R185). -/
def malformed (s : State) : Instr → Bool
  | .validate => decide (frameLen s < 2)
  | .decStatus => frameLen s != statusPayloadLen s + 2
  | .decConfig => (envCheck configPrefix configPayloadLen s).isNone
  | .decBattery => (envCheck batteryPrefix batteryPayloadLen s).isNone
  | .decReady => frameLen s != 1
  | _ => false

/-- The frame's last two bytes are not the checksum of the bytes before them (R186). -/
def checksumWrong (s : State) : Bool :=
  crc16 (payload s (frameLen s - 2)) != joinBytes (fbByte s (frameLen s - 2)) (fbByte s (frameLen s - 1))

/-- The code of the first cause that applies to a command, in the order of R187. -/
def firstCause (i : Instr) (s : State) : ResultCode :=
  if s.ovf = true ∧ i ∈ fbReaders then .fbOverflow
  else if i = .appendCrc ∧ s.params.fbCap < frameLen s + 2 then .fbOverflow
  else if malformed s i = true then .malformedResponse
  else if (i = .validate ∨ i = .decStatus) ∧ checksumWrong s = true then .checksumMismatch
  else .ok

theorem firstCause_of_ovf {i : Instr} {s : State} (hi : i ∈ fbReaders) (ho : s.ovf = true) :
    firstCause i s = .fbOverflow :=
  if_pos ⟨ho, hi⟩

/-- FB_OVERFLOW has the two causes (a) and (b) of R183. -/
theorem firstCause_eq_fbOverflow {i : Instr} {s : State} (h : firstCause i s = .fbOverflow) :
    (s.ovf = true ∧ i ∈ fbReaders) ∨ (i = .appendCrc ∧ s.params.fbCap < frameLen s + 2) := by
  unfold firstCause at h
  split_ifs at h with hovf hroom
  · exact .inl hovf
  · exact .inr hroom

/-- Only a command that reads FB can fail. -/
theorem firstCause_of_not_reader {i : Instr} (hi : i ∉ fbReaders) (s : State) : firstCause i s = .ok := by
  revert hi
  cases i <;> simp [firstCause, malformed]

/-- On a frame of `n` bytes and a checksum, what VALIDATE and DEC_STATUS compare (R97, R112). -/
theorem checksumWrong_of_length {s : State} {n : Nat} (hlen : frameLen s = n + 2) :
    checksumWrong s = (crc16 (payload s n) != receivedCrc s n) := by
  simp [checksumWrong, receivedCrc, hlen]

/-! ### What each command reports -/

theorem checksum_reports_firstCause (s : State) : ∃ t, execChecksum s = .next t ∧ t.err = firstCause .checksum s := by
  unfold execChecksum
  split
  next ho => exact ⟨_, rfl, (firstCause_of_ovf (by decide) ho).symm⟩
  next ho => exact ⟨_, rfl, by simp [firstCause, malformed, ho]⟩

theorem appendCrc_reports_firstCause (s : State) : ∃ t, execAppendCrc s = .next t ∧ t.err = firstCause .appendCrc s := by
  rcases execAppendCrc_cases s with ⟨ho | hfull, hend⟩ | ⟨ho, hroom, hend⟩
  · exact ⟨_, hend, (firstCause_of_ovf (by decide) ho).symm⟩
  · exact ⟨_, hend, by simp [firstCause, hfull]⟩
  · exact ⟨_, hend, by simp [firstCause, malformed, ho, Nat.not_lt.2 hroom]⟩

theorem validate_reports_firstCause (s : State) : ∃ t, execValidate s = .next t ∧ t.err = firstCause .validate s := by
  rcases execValidate_cases s with ⟨ho, hend⟩ | ⟨ho, hshort, hend⟩ | ⟨ho, hlen, hcrc, hend⟩ | ⟨ho, hlen, hcrc, hend⟩
  · exact ⟨_, hend, (firstCause_of_ovf (by decide) ho).symm⟩
  · exact ⟨_, hend, by simp [firstCause, malformed, ho, hshort]⟩
  · have hwrong := checksumWrong_of_length (Nat.sub_add_cancel hlen).symm
    exact ⟨_, hend, by simp [firstCause, malformed, ho, Nat.not_lt.2 hlen, hwrong, hcrc]⟩
  · have hwrong := checksumWrong_of_length (Nat.sub_add_cancel hlen).symm
    exact ⟨_, hend, by simp [firstCause, malformed, ho, Nat.not_lt.2 hlen, hwrong, hcrc]⟩

theorem decStatus_reports_firstCause (s : State) : ∃ t, execDecStatus s = .next t ∧ t.err = firstCause .decStatus s := by
  rcases execDecStatus_cases s with ⟨ho, hend⟩ | ⟨ho, hne, hend⟩ | ⟨ho, hlen, hcrc, hend⟩ | ⟨ho, hlen, hcrc, hend⟩
  · exact ⟨_, hend, (firstCause_of_ovf (by decide) ho).symm⟩
  · exact ⟨_, hend, by simp [firstCause, malformed, ho, hne]⟩
  · exact ⟨_, hend, by simp [firstCause, malformed, ho, hlen, checksumWrong_of_length hlen, hcrc]⟩
  · exact ⟨_, hend, by simp [firstCause, malformed, ho, hlen, checksumWrong_of_length hlen, hcrc]⟩

/-- What DEC_CONFIG and DEC_BATTERY report: their only check is `env_check`'s (R111). -/
theorem decodeEnvelope_err {i : Instr} (kind : RecordKind) {pre : List Byte} {n : Nat} {s : State}
    (hi : i ∈ [Instr.decConfig, .decBattery]) (hcheck : malformed s i = (envCheck pre n s).isNone) :
    (decodeEnvelope kind pre n s).err = firstCause i s := by
  have hreader : i ∈ fbReaders := by fin_cases hi <;> decide
  have hothers : i ≠ .appendCrc ∧ i ≠ .validate ∧ i ≠ .decStatus := by fin_cases hi <;> decide
  rcases decodeEnvelope_cases kind pre n s with ⟨ho, hend⟩ | ⟨ho, hbad, hend⟩ | ⟨ho, hgood, hend⟩ <;> rw [hend]
  · exact (firstCause_of_ovf hreader ho).symm
  · simp [firstCause, ho, hothers, hcheck, hbad]
  · simp [firstCause, ho, hothers, hcheck, hgood]

theorem decReady_reports_firstCause (s : State) : ∃ t, execDecReady s = .next t ∧ t.err = firstCause .decReady s := by
  rcases execDecReady_cases s with ⟨ho, hend⟩ | ⟨ho, hne, hend⟩ | ⟨ho, hlen, hend⟩
  · exact ⟨_, hend, (firstCause_of_ovf (by decide) ho).symm⟩
  · exact ⟨_, hend, by simp [firstCause, malformed, ho, hne]⟩
  · exact ⟨_, hend, by simp [firstCause, malformed, ho, hlen]⟩

/-- Every command reports its first cause (R187). -/
theorem exec_reports_firstCause (i : Instr) (s : State) : ∃ t, exec i s = .next t ∧ t.err = firstCause i s := by
  cases i with
  | checksum => exact checksum_reports_firstCause s
  | appendCrc => exact appendCrc_reports_firstCause s
  | validate => exact validate_reports_firstCause s
  | decStatus => exact decStatus_reports_firstCause s
  | decConfig => exact ⟨_, rfl, decodeEnvelope_err _ (by decide) rfl⟩
  | decBattery => exact ⟨_, rfl, decodeEnvelope_err _ (by decide) rfl⟩
  | decReady => exact decReady_reports_firstCause s
  | nop | fbClr | crcInit | crcByte | lkReady | lkPtype | lkPcolor | lkTimeout | lkBeep =>
    exact ⟨_, rfl, (firstCause_of_not_reader (by decide) s).symm⟩

/-! ### FB_OVERFLOW -/

/-- CHECKSUM and APPEND_CRC change nothing but ERR where OVF stops them (R183). -/
theorem exec_checksum_or_appendCrc_of_ovf {s : State} {i : Instr} (hi : i ∈ [Instr.checksum, .appendCrc]) (ho : s.ovf = true) :
    exec i s = .next (raise .fbOverflow s) := by
  fin_cases hi
  · exact if_pos ho
  · exact if_pos ho

/-- The commands that read FB fall into three kinds by what FB_OVERFLOW does to them: ERR alone, PLEN, the record (R183). -/
theorem fbReaders_cases {i : Instr} (hi : i ∈ fbReaders) :
    (i ∈ [Instr.checksum, .appendCrc] ∧ i ≠ .validate ∧ i ∉ [Instr.decStatus, .decConfig, .decBattery, .decReady]) ∨
    i = .validate ∨
    (i ∈ [Instr.decStatus, .decConfig, .decBattery, .decReady] ∧ i ∉ [Instr.checksum, .appendCrc] ∧ i ≠ .validate) := by
  fin_cases hi <;> decide

/-- Settles O46: the causes are read off `firstCause`, the effects are those of the ends of the commands that OVF stops. -/
theorem overflowIsReportedByCommandsThatReadFb : Obligations.OverflowIsReportedByCommandsThatReadFb := by
  unfold Obligations.OverflowIsReportedByCommandsThatReadFb
  refine ⟨fun s hfull => ?room, fun i s t hexec herr => ?causes, fun i s ho hi => ?effects⟩
  case room =>
    rcases execAppendCrc_cases s with ⟨-, hend⟩ | ⟨-, hroom, -⟩
    · exact hend
    · exact absurd hfull (Nat.not_lt.2 hroom)
  case causes =>
    obtain ⟨u, hu, hcode⟩ := exec_reports_firstCause i s
    obtain rfl : t = u := Host.Outcome.next.inj (hexec.symm.trans hu)
    exact firstCause_eq_fbOverflow (hcode.symm.trans herr)
  case effects =>
    rcases fbReaders_cases hi with ⟨hsum, hval, hdec⟩ | rfl | ⟨hdec, hsum, hval⟩
    · exact ⟨_, exec_checksum_or_appendCrc_of_ovf hsum ho, rfl, ho, rfl, rfl, rfl, rfl, fun _ => rfl, fun h => absurd h hval,
        fun h => absurd h hdec⟩
    · exact ⟨_, if_pos ho, rfl, ho, rfl, rfl, rfl, rfl, fun h => absurd h (by decide), fun _ => rfl,
        fun h => absurd h (by decide)⟩
    · exact ⟨_, exec_decoder_of_ovf hdec ho, rfl, ho, rfl, rfl, rfl, rfl, fun h => absurd h hsum, fun h => absurd h hval,
        fun _ => ⟨rfl, rfl, recordOf_nil_getElem⟩⟩

/-! ### The priority order -/

/-- The three faults of an envelope (R111, R185). -/
theorem envCheck_eq_none_iff {pre : List Byte} {n : Nat} {s : State} : envCheck pre n s = none ↔
    frameLen s ≠ pre.length + n + 2 ∨ memRead s 0 pre.length ≠ pre ∨
      (s.params.termCheck = true ∧ memRead s (pre.length + n) 2 ≠ envelopeTerminator) := by
  have hbad : envCheck pre n s = none ↔ ¬ WholeEnvelope pre n s := by
    rw [← envCheck_eq_some_memRead_iff, Option.eq_none_iff_forall_ne_some]
    constructor
    · exact fun hnone => hnone _
    · intro hne p hp
      obtain ⟨-, -, -, rfl⟩ := envCheck_eq_some_iff.1 hp
      exact hne hp
  simp only [hbad, WholeEnvelope, not_and_or, Classical.not_imp]

theorem encode_injective : Function.Injective encode := fun i j h =>
  Except.ok.inj ((decodeByte_encode i).symm.trans ((congrArg decodeByte h).trans (decodeByte_encode j)))

theorem mem_iff_encode_mem_codes (i : Instr) (l : List Instr) : i ∈ l ↔ encode i ∈ l.map encode :=
  (List.mem_map_of_injective encode_injective).symm

theorem checksumWrong_iff_toNat_ne (s : State) : checksumWrong s = true ↔
    (crc16 (memRead s 0 (s.fblen.toNat - 2))).toNat ≠
      (fbByte s (s.fblen.toNat - 2)).toNat * 256 + (fbByte s (s.fblen.toNat - 1)).toNat := by
  rw [checksumWrong, bne_iff_ne, ← joinBytes_toNat, BitVec.toNat_ne]
  rfl

/-- The length, prefix and terminator checks, each at the code of its command (R185). -/
theorem malformed_iff (s : State) (i : Instr) : malformed s i = true ↔
    (encode i = 0x14#8 ∧ s.fblen.toNat < 2) ∨ (encode i = 0x20#8 ∧ s.fblen.toNat ≠ s.params.statusLen.bytes + 2) ∨
    (encode i = 0x21#8 ∧ (s.fblen.toNat ≠ 18 ∨ memRead s 0 7 ≠ [0x43, 0x4F, 0x4E, 0x46, 0x49, 0x47, 0x20] ∨
      (s.params.termCheck = true ∧ memRead s 16 2 ≠ [0x0D, 0x0A]))) ∨
    (encode i = 0x22#8 ∧ (s.fblen.toNat ≠ 12 ∨ memRead s 0 8 ≠ [0x42, 0x41, 0x54, 0x54, 0x45, 0x52, 0x59, 0x20] ∨
      (s.params.termCheck = true ∧ memRead s 10 2 ≠ [0x0D, 0x0A]))) ∨
    (encode i = 0x23#8 ∧ s.fblen.toNat ≠ 1) := by
  cases i with
  | validate => simp [malformed, encode, frameLen]
  | decStatus => simp [malformed, encode, frameLen, statusPayloadLen]
  | decConfig => simp [malformed, encode, envCheck_eq_none_iff, frameLen, configPrefix, configPayloadLen, envelopeTerminator]
  | decBattery => simp [malformed, encode, envCheck_eq_none_iff, frameLen, batteryPrefix, batteryPayloadLen, envelopeTerminator]
  | decReady => simp [malformed, encode, frameLen]
  | _ => simp [malformed, encode]

/-- Settles O54: a byte in R73's ranges runs ILLEGAL, and a command's code reports its `firstCause`, whose conditions on the
command are conditions on the code. -/
theorem errIsTheFirstCauseInOrder : Obligations.ErrIsTheFirstCauseInOrder := by
  unfold Obligations.ErrIsTheFirstCauseInOrder
  intro s rest v hp
  by_cases hin : InIllegalRanges v
  · obtain ⟨-, -, hillegal⟩ := illegalCodesOnlySetErr
    exact ⟨_, hillegal s rest v hp hin, (if_pos hin).symm⟩
  obtain ⟨row, -, rfl⟩ := exists_row_of_not_inIllegalRanges v hin
  obtain ⟨t, hexec, herr⟩ : ∃ t, exec row.instr { s with pending := rest } = .next t ∧ t.err = firstCause row.instr s :=
    exec_reports_firstCause _ _
  have hstep : step s = .next t := (step_of_cmd (hp.trans (by rw [cmd_eq]; rfl))).trans hexec
  refine ⟨t, hstep, herr.trans ?_⟩
  have hcode := fun i : Instr => (encode_injective.eq_iff (a := row.instr) (b := i)).symm
  have hreads := mem_iff_encode_mem_codes row.instr fbReaders
  have hcompares := or_congr (hcode .validate) (hcode .decStatus)
  rw [if_neg hin]
  exact if_congr (and_congr_right' hreads) rfl (if_congr (and_congr_left' (hcode .appendCrc)) rfl
    (if_congr (malformed_iff s _) rfl (if_congr (and_congr hcompares (checksumWrong_iff_toNat_ne s)) rfl rfl)))

end Sys2Proof.Machine
end

section
/-! PROOFS. Reset and the read after a command (70_reset_and_hazards.md R210, R213): the reset values and what they read as (O1,
O2), the reset state's invariant (O51), and a read that sees the result of the command before it (O50). -/

namespace Sys2Proof.Machine

/-! ### Reset -/

/-- A read of CAP returns FB_CAP, which fits a byte where it is legal (10_state.md R36). -/
theorem readOffset_cap_toNat {s : State} (hwf : s.params.wf = true) : (readOffset s 0x0E#8).toNat = s.params.fbCap := by
  obtain ⟨-, -, -, -, -, -, -, -, hcap, -⟩ := storedRegistersReadAtTheirOffsets s hwf
  exact hcap

theorem default_params_wf : Params.default.wf = true := by decide

/-- The readable values of R210, with R45 for the unmapped offsets; CAP, the one register that shows a parameter, is apart. -/
theorem readOffset_reset : ∀ o : Byte, o ≠ 0x0E#8 → readOffset State.reset o =
    if o = 0x08#8 ∨ o = 0x09#8 ∨ o = 0x50#8 ∨ o = 0x52#8 then 0xFF#8
    else if o = 0x28#8 then 0x0F#8
    else if o = 0x39#8 then 0x06#8
    else 0x00#8 := by
  decide

theorem regAt_eq_cap_iff : ∀ o : Byte, regAt o = some .cap ↔ o = 0x0E#8 := by decide

/-- Every register but CAP reads after a reset as it does in the reset state. -/
theorem readReg_resetBlock (s : State) {r : Reg} (hr : r ≠ .cap) : readReg (resetBlock s) r = readReg State.reset r := by
  cases r with
  | cap => exact absurd rfl hr
  | _ => rfl

theorem readOffset_resetBlock (s : State) {o : Byte} (ho : o ≠ 0x0E#8) :
    readOffset (resetBlock s) o = readOffset State.reset o := by
  cases hreg : regAt o with
  | none => rw [readOffset_of_unmapped hreg, readOffset_of_unmapped hreg]
  | some r =>
    have hr : r ≠ .cap := by
      rintro rfl
      exact ho ((regAt_eq_cap_iff o).1 hreg)
    rw [readOffset_of_regAt hreg, readOffset_of_regAt hreg, readReg_resetBlock s hr]

/-- A step that takes a reset resets the block (R211). -/
theorem step_of_reset {s : State} {rest : List HostEvent} (hp : s.pending = .reset :: rest) :
    step s = .next (resetBlock { s with pending := rest }) :=
  (step_of_pending hp).trans (hostEvent_reset _)

/-- Settles O1: the stored values by definition, the derived ones as `readOffset_reset` lists them. -/
theorem resetStateHoldsTheListedValues : Obligations.ResetStateHoldsTheListedValues := by
  unfold Obligations.ResetStateHoldsTheListedValues
  have hread := readOffset_reset
  exact ⟨rfl, rfl, rfl, rfl, rfl, rfl, rfl, rfl, rfl, recordOf_nil_getElem, rfl, rfl, rfl,
    hread 0x07#8 (by decide), readOffset_cap_toNat default_params_wf, hread 0x28#8 (by decide), hread 0x39#8 (by decide),
    hread 0x3A#8 (by decide), hread 0x42#8 (by decide), hread 0x43#8 (by decide)⟩

/-- Settles O2: the event leaves `resetBlock`, which reads at every offset but CAP's as the reset state does. -/
theorem resetEventLeavesEveryOffsetAtItsResetValue : Obligations.ResetEventLeavesEveryOffsetAtItsResetValue := by
  unfold Obligations.ResetEventLeavesEveryOffsetAtItsResetValue
  intro s rest hwf hp
  exact ⟨_, step_of_reset hp, rfl, recordOf_nil_getElem, readOffset_cap_toNat hwf,
    fun o ho => (readOffset_resetBlock _ ho).trans (readOffset_reset o ho)⟩

/-- Settles O51: the default parameters are legal, and every other clause is about an empty buffer and cleared registers. -/
theorem resetMeetsTheInvariant : Obligations.ResetMeetsTheInvariant := by
  unfold Obligations.ResetMeetsTheInvariant
  exact {
    params_legal := default_params_wf
    fblen_le_cap := Nat.zero_le _
    ovf_full := fun hovf => nomatch hovf
    fb_canonical := Memory.reset_wf
    fb_written := fun _ hi => absurd hi (Nat.not_lt_zero _)
    fb_inside := fun _ hi => nomatch hi
    plen_fits := by decide
    record_padded := fun i _ => recordOf_nil_getElem i
    lookup_agrees := .inr ⟨rfl, rfl⟩
    lkmin_listed := by decide }

/-! ### A read after a command -/

/-- Settles O50: the command keeps the events still to come, so the next step takes the read; it keeps the values returned so far,
so the read's value is the one added. -/
theorem aReadAfterACommandSeesItsResult : Obligations.AReadAfterACommandSeesItsResult := by
  unfold Obligations.AReadAfterACommandSeesItsResult
  intro s u i offset rest hp hexec
  have hkeeps := keepsOffRow_of_exec hexec
  have hcmd : step s = .next u := (step_of_cmd (hp.trans (List.append_assoc _ _ _))).trans hexec
  have hread := step_of_read hkeeps.pending
  rw [hkeeps.returned] at hread
  exact ⟨by rw [runSteps_succ_of hcmd, runSteps_succ_of hread, runSteps_zero], readOffset_offsetOf u .err⟩

end Sys2Proof.Machine
end
